-- ==== Sys2Proof/Word.lean ====
section
/-! DEFINITION. The widths of what crosses the link: bytes, and the two-byte fields that are sent high byte first (R193). -/

namespace Sys2Proof

/-- One byte on the link (R193). -/
abbrev Byte := BitVec 8

/-- A field of two bytes: a body length, a geometry field or a check (R193, R194, R200). -/
abbrev Half := BitVec 16

end Sys2Proof
end

