-- ==== Sys2Proof/Config.lean ====
section
/-! DEFINITION. What the spec leaves open and an implementation settles: three free values, with no body. -/

namespace Sys2Proof.Config

/-- FREE VALUE (assumption 7). Which of the 24 orders the four head sequencers are served in at the n-th event handed to
all of them. R102, R166 and the worked example of section 5.6 leave that order open: "their COMMITTED answers may be
generated in either order". Nothing constrains it. -/
opaque headTurn : Nat → Nat

/-- FREE VALUE (assumption 18). Whether the DONE of a STOP is generated before the COMMITTED answers of the commits that swap on
the heads it parks at once. R79 and R81 put all of them at the take and R166 leaves their order to the verb's rule, which
gives none. Nothing constrains it. -/
opaque stopAnswersFirst : Nat → Bool

/-- FREE VALUE (assumption 24). The frame tag byte that READ-STATUS reports for a head whose armed commit has no frame tag, by
the head's index, the commit's sequence tag and the events handed to the heads so far. R190 and R199 give the byte for a head
with no armed commit and for a frame tag that is present, and none here. Nothing constrains it. -/
opaque absentFrameTag : Nat → Byte → Nat → Byte

end Sys2Proof.Config
end

