-- ==== Sys2Proof/Syntax.lean ====
section
/-! DEFINITION. What crosses the part's connections, and the commands of the block: one constructor of `Instr` for each row of
spec/opcode_table.json, with what the outside supplies at that event as its operands (assumptions 1, 15 and 16). -/

namespace Sys2Proof

/-- The four heads (chapter 0, Names). -/
inductive HeadId where
  | h0
  | h1
  | h2
  | h3
deriving DecidableEq, Repr

/-- One value for each channel of a pixel or of a trim (R41). -/
structure PerChannel (α : Type) where
  r : α
  g : α
  b : α
deriving DecidableEq, Repr

/-- A pixel: one code for each channel, each 0..1023 (R9, R56). -/
abbrev Pixel := PerChannel Nat

/-- The six header bytes of a packet, as received (R109, R193). -/
structure Header where
  target : Byte
  verb : Byte
  tag : Byte
  flags : Byte
  length : Half
deriving DecidableEq, Repr

/-- A packet whose check was good, kept whole (R125). -/
structure Packet where
  header : Header
  body : List Byte
deriving DecidableEq, Repr

/-- An answer record (R164), every field as it stands on the return lane (R197). Relayed answers are not judged, so every
field may hold any value. -/
structure Answer where
  sourceHop : Byte
  verb : Byte
  tag : Byte
  outcome : Byte
  head : Byte
  body : List Byte
  check : Half
deriving DecidableEq, Repr

/-- What had been received of an item that is broken off: the bytes of a marker or of a packet, or the pixels of an active line
(R2, R15). -/
inductive ItemPart where
  | marker (bytes : List Byte)
  | line (pixels : List Pixel)
  | packet (bytes : List Byte)
deriving DecidableEq, Repr

/-- The commands of the block: the rows of spec/opcode_table.json. The verb rows (`discover` and after) are takes: each acts on
the oldest packet of the intake queue (R134), which holds its operands. -/
inductive Instr where
  /-- POWER_ON_RESET (R183): the reset input is asserted, with what had been received of an item that this breaks off (R15),
  or nothing. -/
  | powerOnReset (broken : Option ItemPart := none)
  /-- RESET_INPUT_RELEASE (R179, R1): the reset input is released, with carrier present on the source link or not. -/
  | resetInputRelease (carrierPresent : Bool)
  /-- INITIALIZATION_COMPLETION (R181). -/
  | initializationCompletion
  /-- CARRIER_UP (R2). -/
  | carrierUp
  /-- CARRIER_LOSS (R2), with what had been received of an item that it breaks off (R15), or nothing. -/
  | carrierLoss (broken : Option ItemPart := none)
  /-- FRAME_START (R4): a valid marker with its three fields as received; its check is good (R3). -/
  | frameStart (frame : Byte) (width height : Half)
  /-- MALFORMED_MARKER (R5): the bytes of a marker whose check fails. -/
  | malformedMarker (bytes : List Byte)
  /-- LINE_COMPLETION (R10): an active line has been received, with these pixels (R8, R9). -/
  | lineCompletion (pixels : List Pixel)
  /-- PACKET_ARRIVAL (R112): a packet has ended; these are its bytes from its start to its end (R110). -/
  | packetArrival (bytes : List Byte)
  /-- ABSENCE_EXPIRY (R6). -/
  | absenceExpiry
  /-- FILL_TIMER_EXPIRY (R73) of one head. -/
  | fillTimerExpiry (head : HeadId)
  /-- WRITE_COMPLETION (R87). -/
  | writeCompletion
  /-- GENERATION_COMPLETION (R77). -/
  | generationCompletion
  /-- SEGMENT_COPY_COMPLETION (R93). -/
  | segmentCopyCompletion
  /-- SEND_START (R172). -/
  | sendStart
  /-- SEND_COMPLETION (R171), with whether the partner above begins to hold the lane back at it (R170), and whether the answer has
  arrived there: it has not where the cable is parted or the partner was reset during the send (R171). -/
  | sendCompletion (heldBack : Bool) (arrived : Bool := true)
  /-- RELAY_ARRIVAL (R169) of one answer from the unit below. -/
  | relayArrival (answer : Answer)
  /-- HOLD_BACK_RELEASE (R173) by the partner above; with its operand set, the opposite change of the same hold-back: the partner
  begins to hold the lane back, idle or in a send (R171), for which the table has no row (assumption 9). -/
  | holdBackRelease (asserted : Bool := false)
  /-- DISCOVER (R119), taken. -/
  | discover
  /-- SET-ACCEPT (R121), taken. -/
  | setAccept
  /-- SET-LINK (R7), taken. -/
  | setLink
  /-- SET-INTAKE (R132), taken. -/
  | setIntake
  /-- SET-GUARD (R159), taken. -/
  | setGuard
  /-- SET-RETURN (R174), taken. -/
  | setReturn
  /-- CLEAR-FAULT (R160), taken. -/
  | clearFault
  /-- READ-STATUS (R188), taken. -/
  | readStatus
  /-- RESET-UNIT (R184), taken. -/
  | resetUnit
  /-- SET-TIMING (R76), taken. -/
  | setTiming
  /-- START (R78), taken. -/
  | start
  /-- STOP (R79), taken. -/
  | stop
  /-- WRITE-TABLE (R86), taken. -/
  | writeTable
  /-- READ-TABLE (R89), taken. -/
  | readTable
  /-- SYNC (R92), taken. -/
  | sync
  /-- COMMIT (R97), taken. -/
  | commit
  /-- CANCEL (R104), taken. -/
  | cancel
  /-- A packet whose verb code is unknown (R135), taken. -/
  | unknownVerb
deriving DecidableEq, Repr

end Sys2Proof
end

