-- ==== Sys2Proof/Decode.lean ====
section
/-! DEFINITION. Bytes on the link (chapter 11): the check, the marker, the packet and the answer, read and written; and the
command that a word spells by the table's bits (none: spec/opcode_table.json gives no row any bits). -/

namespace Sys2Proof

/-- The command that the low `nbits` bits of `w` spell by the bits of spec/opcode_table.json. No row of the table gives any
bits, so no word spells a command (assumption 17). -/
def decodeTableWord (_nbits _w : Nat) : Option Instr := none

/-! ## Bytes and fields (R193) -/

/-- The low byte of a number. -/
def byteOf (n : Nat) : Byte := BitVec.ofNat 8 n

/-- A two-byte field, high byte first (R193). -/
def halfBytes (h : Half) : List Byte := [byteOf (h.toNat / 256), byteOf h.toNat]

/-- A two-byte unsigned field that carries `n`, high byte first (R193). -/
def natBytes2 (n : Nat) : List Byte := [byteOf (n / 256), byteOf n]

/-- A two-byte field that carries `x` in two's complement, high byte first (R193). -/
def intBytes2 (x : Int) : List Byte := natBytes2 (BitVec.ofInt 16 x).toNat

/-- A three-byte field that carries `x` in two's complement, high byte first (R193, R196). -/
def intBytes3 (x : Int) : List Byte :=
  let n := (BitVec.ofInt 24 x).toNat
  [byteOf (n / 65536), byteOf (n / 256), byteOf n]

/-- The byte at an index, 0 where none was received. -/
def byteAt (bs : List Byte) (i : Nat) : Byte := bs.getD i 0

/-- The unsigned value of the byte at an index. -/
def natAt (bs : List Byte) (i : Nat) : Nat := (byteAt bs i).toNat

/-- The unsigned two-byte field at an index, high byte first (R193). -/
def natAt2 (bs : List Byte) (i : Nat) : Nat := natAt bs i * 256 + natAt bs (i + 1)

/-- The signed two-byte field at an index (R193). -/
def intAt2 (bs : List Byte) (i : Nat) : Int := (BitVec.ofNat 16 (natAt2 bs i)).toInt

/-- The signed three-byte field at an index (R193, R196). -/
def intAt3 (bs : List Byte) (i : Nat) : Int :=
  (BitVec.ofNat 24 (natAt bs i * 65536 + natAt2 bs (i + 1))).toInt

/-! ## The check (R111, R194) -/

/-- One data bit taken into the remainder: shift left by one; where the bit shifted out differs from the data bit, combine
with 1021h (R194). -/
def crcBit (r : Half) (bit : Bool) : Half :=
  if r.msb != bit then (r <<< 1) ^^^ 0x1021#16 else r <<< 1

/-- One byte taken into the remainder, most significant bit first (R194). -/
def crcByte (r : Half) (x : Byte) : Half :=
  [7, 6, 5, 4, 3, 2, 1, 0].foldl (fun r i => crcBit r (x.getLsbD i)) r

/-- The check of a packet, an answer or a marker: a CRC-16 over its bytes, started at FFFFh, with no final inversion (R194). -/
def crc16 (bs : List Byte) : Half := bs.foldl crcByte 0xFFFF#16

/-- Bytes closed by their check, high byte first (R194). -/
def withCheck (bs : List Byte) : List Byte := bs ++ halfBytes (crc16 bs)

/-! ## Frame-start markers (R3, R200) -/

/-- The five bytes of a marker before its check (R200). -/
def markerFields (frame : Byte) (width height : Half) : List Byte :=
  frame :: (halfBytes width ++ halfBytes height)

/-- The seven bytes of a valid marker (R200). -/
def encodeMarker (frame : Byte) (width height : Half) : List Byte :=
  withCheck (markerFields frame width height)

/-- A marker is valid when it has its seven bytes and its check is good; otherwise it is malformed (R3, R200). -/
def markerValid (bs : List Byte) : Bool :=
  bs.length == 7 && halfBytes (crc16 (bs.take 5)) == bs.drop 5

/-- The command that a marker's bytes are: a frame start where the marker is valid, a malformed marker otherwise (R3). -/
def decodeMarker (bs : List Byte) : Instr :=
  if markerValid bs then
    .frameStart (byteAt bs 0) (BitVec.ofNat 16 (natAt2 bs 1)) (BitVec.ofNat 16 (natAt2 bs 3))
  else .malformedMarker bs

/-! ## Packets (R109, R110, R193) -/

/-- The six header bytes (R193). -/
def headerBytes (h : Header) : List Byte :=
  [h.target, h.verb, h.tag, h.flags] ++ halfBytes h.length

/-- The raw header fields of the bytes of a packet; a byte that was not received is 00h (R155, R193). -/
def rawHeader (bs : List Byte) : Header where
  target := byteAt bs 0
  verb := byteAt bs 1
  tag := byteAt bs 2
  flags := byteAt bs 3
  length := BitVec.ofNat 16 (natAt2 bs 4)

/-- Whether all header fields were received (R155). -/
def headerComplete (bs : List Byte) : Bool := decide (6 ≤ bs.length)

/-- A packet is whole when its header is complete, its body length field is 272 or less, exactly that many body bytes follow
and the check follows them (R110). -/
def packetWhole (bs : List Byte) : Bool :=
  decide ((rawHeader bs).length.toNat ≤ 272) && bs.length == 8 + (rawHeader bs).length.toNat

/-- The packet check: good when the packet is whole and the remainder over header and body equals the check field (R111). -/
def packetGood (bs : List Byte) : Bool :=
  packetWhole bs && halfBytes (crc16 (bs.take (bs.length - 2))) == bs.drop (bs.length - 2)

/-- The header and body of a whole packet. -/
def packetOf (bs : List Byte) : Packet where
  header := rawHeader bs
  body := (bs.drop 6).take (rawHeader bs).length.toNat

/-- The bytes of a packet, closed by its check (R193). -/
def encodePacket (p : Packet) : List Byte := withCheck (headerBytes p.header ++ p.body)

/-- The verb code of DISCOVER (R195). -/
def discoverCode : Byte := 0x10#8

/-- The two body bytes of a DISCOVER as the thru port forwards them, from those received: hop field and overflow flag
(R118, R200). -/
def forwardedHop (hop flag : Byte) : Byte × Byte :=
  if flag != 0#8 then (hop, flag)
  else if hop.toNat ≤ 14 then (hop + 1#8, flag)
  else (15#8, 1#8)

/-- What the thru port forwards for a packet recognised in LOCKED: its bytes as received, but for a DISCOVER whose check is
good, which goes on with its hop field counted and its check computed anew (R118, R123). A DISCOVER whose body lacks the hop
field or the overflow flag has nothing to rewrite and is forwarded as received (assumption 11, DEDUCED). -/
def forwardedPacket (bs : List Byte) : List Byte :=
  if packetGood bs && (rawHeader bs).verb == discoverCode && decide (10 ≤ bs.length) then
    let hf := forwardedHop (byteAt bs 6) (byteAt bs 7)
    withCheck (bs.take 6 ++ [hf.1, hf.2] ++ (bs.drop 8).take (bs.length - 10))
  else bs

/-! ## Answers (R164, R197) -/

/-- The seven header bytes of an answer (R197). -/
def answerHeaderBytes (sourceHop verb tag outcome head : Byte) (body : List Byte) : List Byte :=
  [sourceHop, verb, tag, outcome, head] ++ natBytes2 body.length

/-- The bytes of an answer on the return lane (R197). -/
def answerBytes (a : Answer) : List Byte :=
  answerHeaderBytes a.sourceHop a.verb a.tag a.outcome a.head a.body ++ a.body ++ halfBytes a.check

/-- An answer as the generating unit makes it, its check computed over its header and body (R164). -/
def sealAnswer (sourceHop verb tag outcome head : Byte) (body : List Byte) : Answer where
  sourceHop := sourceHop
  verb := verb
  tag := tag
  outcome := outcome
  head := head
  body := body
  check := crc16 (answerHeaderBytes sourceHop verb tag outcome head body ++ body)

/-- The answer that bytes on a return lane are: none where they are fewer or more than its body length field says (R197). -/
def answerOf (bs : List Byte) : Option Answer :=
  if 9 ≤ bs.length ∧ bs.length = 9 + natAt2 bs 5 then
    some { sourceHop := byteAt bs 0, verb := byteAt bs 1, tag := byteAt bs 2, outcome := byteAt bs 3, head := byteAt bs 4,
           body := (bs.drop 7).take (natAt2 bs 5), check := BitVec.ofNat 16 (natAt2 bs (bs.length - 2)) }
  else none

end Sys2Proof
end

