-- ==== Sys2Proof/Machine/Tables.lean ====
section
/-! DEFINITION. The tables of a head, their segments, banks and shapes (chapters 2, 3 and 5), the head timing that shapes them
(R60), and their default contents (R22, R44, R45, R50, R57, R61). -/

namespace Sys2Proof.Machine

/-! ## Heads and tables as indices -/

/-- One value for each head H0..H3. -/
structure PerHead (α : Type) where
  h0 : α
  h1 : α
  h2 : α
  h3 : α
deriving DecidableEq, Repr

/-- The value of one head. -/
def PerHead.get {α : Type} (x : PerHead α) : HeadId → α
  | .h0 => x.h0
  | .h1 => x.h1
  | .h2 => x.h2
  | .h3 => x.h3

/-- The values a function gives the heads. -/
def PerHead.ofFn {α : Type} (f : HeadId → α) : PerHead α := ⟨f .h0, f .h1, f .h2, f .h3⟩

/-- One head's value replaced. -/
def PerHead.set {α : Type} (x : PerHead α) (h : HeadId) (a : α) : PerHead α :=
  .ofFn fun k => if k = h then a else x.get k

/-- Every head's value changed by a function of the head. -/
def PerHead.mapHeads {α β : Type} (f : HeadId → α → β) (x : PerHead α) : PerHead β :=
  .ofFn fun h => f h (x.get h)

/-- The heads in ascending index (R82). -/
def allHeads : List HeadId := [.h0, .h1, .h2, .h3]

/-- The index 0..3 of a head. -/
def headIndex : HeadId → Nat
  | .h0 => 0
  | .h1 => 1
  | .h2 => 2
  | .h3 => 3

/-- A set of heads (R109). -/
abbrev HeadMask := PerHead Bool

/-- The heads a mask names, in ascending index. -/
def maskHeads (m : HeadMask) : List HeadId := allHeads.filter m.get

/-- The five tables of a head (R82). -/
inductive Table where
  | mesh
  | blend
  | decode
  | encode
  | trim
deriving DecidableEq, Repr

/-- One value for each table. -/
structure PerTable (α : Type) where
  mesh : α
  blend : α
  decode : α
  encode : α
  trim : α
deriving DecidableEq, Repr

/-- The value of one table. -/
def PerTable.get {α : Type} (x : PerTable α) : Table → α
  | .mesh => x.mesh
  | .blend => x.blend
  | .decode => x.decode
  | .encode => x.encode
  | .trim => x.trim

/-- The values a function gives the tables. -/
def PerTable.ofFn {α : Type} (f : Table → α) : PerTable α :=
  ⟨f .mesh, f .blend, f .decode, f .encode, f .trim⟩

/-- One table's value replaced. -/
def PerTable.set {α : Type} (x : PerTable α) (t : Table) (a : α) : PerTable α :=
  .ofFn fun k => if k = t then a else x.get k

/-- The tables in table order (R82). -/
def allTables : List Table := [.mesh, .blend, .decode, .encode, .trim]

/-- A set of tables. -/
abbrev TableSet := PerTable Bool

/-- The tables a set holds, in table order. -/
def setTables (t : TableSet) : List Table := allTables.filter t.get

/-! ## Table entries -/

/-- The edge policy of a mesh header (R21). -/
inductive EdgePolicy where
  | extend
  | black
deriving DecidableEq, Repr

/-- The mesh header: the source window and the edge policy (R21). -/
structure MeshHeader where
  ox : Nat
  oy : Nat
  wx : Nat
  wy : Nat
  edge : EdgePolicy
deriving DecidableEq, Repr

/-- A mesh point: a source coordinate in 1/16 input pixel and the blank flag (R20). -/
structure MeshPoint where
  sx : Int
  sy : Int
  blank : Bool
deriving DecidableEq, Repr

/-- A blend point: a weight, and a lift that is present or absent (R48). -/
structure BlendPoint where
  weight : Nat
  lift : Option Nat
deriving DecidableEq, Repr

/-- The nine entries of TRIM: gains, offsets and fill codes (R45). -/
structure Trim where
  gain : PerChannel Nat
  offset : PerChannel Int
  fill : PerChannel Nat
deriving DecidableEq, Repr

/-- The contents of one segment, the unit in which a table is written, read and copied (R82): the mesh header, a row of mesh
points, a row of blend points, the entries of a DECODE or ENCODE segment, or the entries of TRIM. -/
inductive Segment where
  | header (h : MeshHeader)
  | points (row : List MeshPoint)
  | blends (row : List BlendPoint)
  | values (entries : List Nat)
  | trim (t : Trim)
deriving DecidableEq, Repr

/-- One full copy of a table for one head: its segments in ascending index (R82). -/
abbrev Bank := List Segment

/-- A pair: one table of one head, with its two banks and the coverage of its shadow, in ascending segment index (R83, R84). -/
structure Pair where
  live : Bank
  shadow : Bank
  coverage : List Nat
deriving DecidableEq, Repr

/-! ## Head timing and the shapes it sets -/

/-- The head timing record (R60). -/
structure Timing where
  width : Nat
  height : Nat
  k : Nat
  b : Nat
  delay : Nat
  lineStep : Nat
  fillPeriod : Nat
deriving DecidableEq, Repr

/-- The quotient rounded up. -/
def ceilDiv (n d : Nat) : Nat := (n + d - 1) / d

/-- The mesh cell size C = 2^k (R18). -/
def meshCell (t : Timing) : Nat := 2 ^ t.k

/-- Mesh points across (R18). -/
def meshAcross (t : Timing) : Nat := ceilDiv t.width (meshCell t) + 1

/-- Mesh points down (R18). -/
def meshDown (t : Timing) : Nat := ceilDiv t.height (meshCell t) + 1

/-- The blend spacing B = 2^b (R47). -/
def blendCell (t : Timing) : Nat := 2 ^ t.b

/-- Blend points across (R47). -/
def blendAcross (t : Timing) : Nat := ceilDiv t.width (blendCell t) + 1

/-- Blend points down (R47). -/
def blendDown (t : Timing) : Nat := ceilDiv t.height (blendCell t) + 1

/-- How many segments a table of a head with this timing has (R19, R43, R45, R49, R56, R82). -/
def segmentCount (t : Timing) : Table → Nat
  | .mesh => 1 + meshDown t
  | .blend => blendDown t
  | .decode => 16
  | .encode => 64
  | .trim => 1

/-- How many entries a segment of a table has (R19, R43, R45, R49, R56, R82). -/
def entryCount (t : Timing) : Table → Nat → Nat
  | .mesh, seg => if seg = 0 then 1 else meshAcross t
  | .blend, _ => blendAcross t
  | .decode, _ => 64
  | .encode, _ => 64
  | .trim, _ => 9

/-! ## Clamping and default contents -/

/-- A mesh header as it is stored: each field clamped in the order of R21. -/
def clampHeader (ox oy wx wy : Nat) (edge : EdgePolicy) : MeshHeader :=
  let x := min ox 4095
  let y := min oy 2303
  { ox := x, oy := y, wx := max 1 (min wx (4096 - x)), wy := max 1 (min wy (2304 - y)), edge := edge }

/-- The identity mesh of a timing and a source window (R22). -/
def identityMesh (t : Timing) (ox oy wx wy : Nat) : Bank :=
  let h := clampHeader ox oy wx wy .extend
  .header h :: (List.range (meshDown t)).map fun (j : Nat) =>
    .points ((List.range (meshAcross t)).map fun (i : Nat) =>
      { sx := ((h.ox + i * meshCell t) * 16 : Nat), sy := ((h.oy + j * meshCell t) * 16 : Nat), blank := false })

/-- The unity blend of a timing (R50). -/
def unityBlend (t : Timing) : Bank :=
  (List.range (blendDown t)).map fun _ =>
    .blends ((List.range (blendAcross t)).map fun _ => { weight := 4096, lift := none })

/-- The default decode (R44). -/
def defaultDecode : Bank :=
  (List.range 16).map fun s => .values ((List.range 64).map fun i => (64 * s + i) * 65535 / 1023)

/-- The default encode (R57). -/
def defaultEncode : Bank :=
  (List.range 64).map fun s => .values ((List.range 64).map fun i => ((64 * s + i) * 1023 + 2047) / 4095)

/-- The default trim (R45). -/
def defaultTrim : Bank := [.trim { gain := ⟨4096, 4096, 4096⟩, offset := ⟨0, 0, 0⟩, fill := ⟨0, 0, 0⟩ }]

/-- The default timing of each head (R61). -/
def defaultTiming : HeadId → Timing
  | .h0 => { width := 1920, height := 1080, k := 6, b := 5, delay := 0, lineStep := 4096, fillPeriod := 16667 }
  | .h1 => { width := 1920, height := 1080, k := 6, b := 5, delay := 0, lineStep := 4096, fillPeriod := 16667 }
  | .h2 => { width := 1920, height := 1080, k := 6, b := 5, delay := 1080, lineStep := 4096, fillPeriod := 16667 }
  | .h3 => { width := 1920, height := 1080, k := 6, b := 5, delay := 1080, lineStep := 4096, fillPeriod := 16667 }

/-- The origin Ox, Oy of each head's default window; every default window is 1920 by 1080 (R61). -/
def defaultOrigin : HeadId → Nat × Nat
  | .h0 => (0, 0)
  | .h1 => (1920, 0)
  | .h2 => (0, 1080)
  | .h3 => (1920, 1080)

/-- The default contents of one bank of a pair (R108, R180). -/
def defaultBank (h : HeadId) : Table → Bank
  | .mesh => identityMesh (defaultTiming h) (defaultOrigin h).1 (defaultOrigin h).2 1920 1080
  | .blend => unityBlend (defaultTiming h)
  | .decode => defaultDecode
  | .encode => defaultEncode
  | .trim => defaultTrim

/-- A pair whose two banks hold the same contents, all of it current (R77, R180). -/
def freshPair (bank : Bank) (segments : Nat) : Pair :=
  { live := bank, shadow := bank, coverage := List.range segments }

/-- The pairs of a head as initialization leaves them (R180). -/
def defaultPairs (h : HeadId) : PerTable Pair :=
  .ofFn fun t => freshPair (defaultBank h t) (segmentCount (defaultTiming h) t)

end Sys2Proof.Machine
end

