-- ==== Sys2Proof/Machine/State.lean ====
section
/-! DEFINITION. The state of one unit, block by block as chapter 0 lists the blocks, as plain data; what stops the machine; and the
state right after reset. -/

namespace Sys2Proof.Machine

/-- Why the machine would stop with a fault. The spec gives every event an effect, or none where the event is not due
(assumption 2), so no event raises a fault and the type has no constructor. Safe: nothing is left out by a stop. -/
inductive Fault where
deriving DecidableEq, Repr

/-- Why a command has no meaning. -/
inductive Refusal where
  /-- The command's meaning is not written; raised by `exec`'s arm alone, and by none at present. Safe: the machine stops where
  the part goes on. -/
  | notModelled (mnemonic : String)
deriving DecidableEq, Repr

/-! ## Link receiver and line ring (chapter 1) -/

/-- The four states of the link receiver (R1). -/
inductive LinkState where
  | noSignal
  | search
  | locked
  | coasting
deriving DecidableEq, Repr

/-- The link receiver (section 1.1). -/
structure Receiver where
  state : LinkState
  carrier : Bool
  /-- The remaining time in ms of a running absence timer; the model does not count it down (assumption 6). -/
  absenceTimer : Option Nat
  timeout : Nat
  frame : Byte
  width : Nat
  height : Nat
  lines : Nat
deriving DecidableEq, Repr

/-- A completed input line held in the ring, with its number (R11). -/
structure RingLine where
  number : Nat
  pixels : List Pixel
deriving DecidableEq, Repr

/-! ## Packet filter, health monitor and fault record (chapters 6 and 8) -/

/-- The packet filter: the hop, none while unnumbered (R117), and the group addresses in ascending order (R114). The
acceptance map is these and 255. -/
structure PacketFilter where
  hop : Option Byte
  groups : List Byte
deriving DecidableEq, Repr

/-- The link health monitor: the error count E (R148), the MUTE recovery run count (R152), the WARN latch and its re-arm flag
(R153). The confinement state is read from E (R149). -/
structure Health where
  errors : Nat
  muteRun : Nat
  warn : Bool
  rearm : Bool
deriving DecidableEq, Repr

/-- The confinement states (R149). -/
inductive Confinement where
  | active
  | reduced
  | mute
deriving DecidableEq, Repr

/-- The kinds of fault (R154). -/
inductive FaultKind where
  | check
  | form
  | lost
deriving DecidableEq, Repr

/-- An occupied fault record (R154). -/
structure FaultEntry where
  kind : FaultKind
  complete : Bool
  header : Header
  frame : Byte
  overflow : Nat
deriving DecidableEq, Repr

/-- The guard modes (R158). -/
inductive GuardMode where
  | strict
  | lenient
deriving DecidableEq, Repr

/-- The fault record, none while empty, and the guard mode (R154, R158). -/
structure FaultRecord where
  entry : Option FaultEntry
  guard : GuardMode
deriving DecidableEq, Repr

/-! ## Intake and table loader (chapter 7) -/

/-- The intake modes (R132). -/
inductive IntakeMode where
  | overrun
  | overwrite
deriving DecidableEq, Repr

/-- The intake queue, oldest first, its mode and its lost count (R125, R129, R132). -/
structure Intake where
  queue : List Packet
  mode : IntakeMode
  lost : Nat
deriving DecidableEq, Repr

/-- The ten outcome codes (R138). -/
inductive OutcomeCode where
  | done
  | armed
  | committed
  | cancelled
  | busy
  | badState
  | badArg
  | badForm
  | notReady
  | held
deriving DecidableEq, Repr

/-- The loader's condition (R133). When busy with a verb it keeps that verb's packet, which holds every field of its record of
the verb in execution (assumption 14). -/
inductive LoaderState where
  | idle
  /-- Busy with nothing taken, from power-on reset to initialization completion. -/
  | startingUp
  | writing (p : Packet)
  | generating (p : Packet)
  | resetting (p : Packet)
deriving DecidableEq, Repr

/-- The last-refusal record when occupied (R140). -/
structure LastRefusal where
  verb : Byte
  tag : Byte
  outcome : OutcomeCode
  frame : Byte
deriving DecidableEq, Repr

/-- The table loader (section 7.3). -/
structure Loader where
  state : LoaderState
  lastRefusal : Option LastRefusal
deriving DecidableEq, Repr

/-! ## Heads (chapters 2, 4 and 5) -/

/-- The head states (R67). -/
inductive HeadState where
  | parked
  | priming
  | run
  | fill
deriving DecidableEq, Repr

/-- An armed commit (R96). -/
structure ArmedCommit where
  tables : TableSet
  frameTag : Option Byte
  tag : Byte
  wanted : Bool
deriving DecidableEq, Repr

/-- One head: its timing record (R60), the state of its sequencer (R67), its reach-miss counters (section 2.7), its
short-frame count (R66), its event flags (R75), its armed commit (R96) and its five pairs of banks (R83). -/
structure Head where
  timing : Timing
  state : HeadState
  stopPending : Bool
  nextLine : Nat
  /-- The remaining time in µs of a running fill timer; the model does not count it down (assumption 6). -/
  fillTimer : Option Nat
  armed : Option ArmedCommit
  missRunning : Nat
  missLatched : Nat
  missTotal : Nat
  shortFrames : Nat
  parkedFlag : Bool
  committedFlag : Bool
  fillFlag : Bool
  pairs : PerTable Pair
deriving DecidableEq, Repr

/-! ## Copy engine (section 5.5) -/

/-- A sync job (R91). -/
structure SyncJob where
  head : HeadId
  table : Table
  tag : Byte
  wanted : Bool
deriving DecidableEq, Repr

/-- A segment copy in flight (R93). -/
structure SegmentCopy where
  head : HeadId
  table : Table
  segment : Nat
deriving DecidableEq, Repr

/-- The copy engine: the sync job list, oldest first, and the segment copy in flight, none while idle (R91, R93). -/
structure CopyEngine where
  jobs : List SyncJob
  inFlight : Option SegmentCopy
deriving DecidableEq, Repr

/-! ## Answers and the return lane (chapter 9) -/

/-- The merge modes (R172, R174). -/
inductive MergeMode where
  | relayFirst
  | ownFirst
  | alternate
deriving DecidableEq, Repr

/-- The last-served mark (R172). -/
inductive Served where
  | own
  | relay
deriving DecidableEq, Repr

/-- The answer queue and the return merger: own answer queue and relay holding, oldest first (R167, R170), the answer in
flight (R171), whether the partner above holds the lane back (R171), the merge mode, the answers-lost count (R168) and the
last-served mark. -/
structure AnswerSide where
  own : List Answer
  relay : List Answer
  sending : Option Answer
  heldBack : Bool
  mode : MergeMode
  lost : Nat
  lastServed : Served
deriving DecidableEq, Repr

/-! ## Unit control, and what left the ports -/

/-- The unit states (R179). -/
inductive UnitState where
  | initializing
  | ready
deriving DecidableEq, Repr

/-- Unit control: unit state, start-up flag (R179), and the level of the reset input (assumption 5). -/
structure UnitControl where
  state : UnitState
  startUp : Bool
  resetInput : Bool
deriving DecidableEq, Repr

/-- What a head port emits: the mark of a new output frame, or a line (R64). -/
inductive PortItem where
  | frameBegin
  | line (pixels : List Pixel)
deriving DecidableEq, Repr

/-- What the thru port presents to the next unit: a marker's or a packet's bytes, a line's pixels, what had arrived of an item
that was broken off (R15), and its carrier, presented or withdrawn (R16). -/
inductive ThruItem where
  | marker (bytes : List Byte)
  | line (pixels : List Pixel)
  | packet (bytes : List Byte)
  | part (item : ItemPart)
  | carrier (up : Bool)
deriving DecidableEq, Repr

/-- The model's own record of what has left the part, oldest first (assumption 8): the four head ports, the thru port, and the
answers that reached the partner above whole. -/
structure Outputs where
  ports : PerHead (List PortItem)
  thru : List ThruItem
  returned : List Answer
deriving DecidableEq, Repr

/-- The state of one unit. -/
structure State where
  receiver : Receiver
  ring : List RingLine
  filter : PacketFilter
  health : Health
  fault : FaultRecord
  intake : Intake
  loader : Loader
  heads : PerHead Head
  copy : CopyEngine
  answers : AnswerSide
  control : UnitControl
  outputs : Outputs
  /-- The model's own counter of events handed to the heads, the argument of the free value `Config.headTurn` (assumption 7). -/
  turn : Nat
  /-- The commands waiting, first in, first out. -/
  pending : List Instr
deriving DecidableEq, Repr

/-! ## Reset -/

/-- A head at power-on (R61, R67), with the default contents in its banks (assumption 10). -/
def resetHead (h : HeadId) : Head where
  timing := defaultTiming h
  state := .parked
  stopPending := false
  nextLine := 0
  fillTimer := none
  armed := none
  missRunning := 0
  missLatched := 0
  missTotal := 0
  shortFrames := 0
  parkedFlag := false
  committedFlag := false
  fillFlag := false
  pairs := defaultPairs h

/-- The machine right after power-on reset is asserted: every piece of state at its power-on value (R183), the reset input
still asserted, and no command waiting. -/
def State.reset : State where
  receiver := { state := .noSignal, carrier := false, absenceTimer := none, timeout := 100, frame := 0#8, width := 3840,
                height := 2160, lines := 0 }
  ring := []
  filter := { hop := none, groups := [] }
  health := { errors := 0, muteRun := 0, warn := false, rearm := true }
  fault := { entry := none, guard := .strict }
  intake := { queue := [], mode := .overrun, lost := 0 }
  loader := { state := .startingUp, lastRefusal := none }
  heads := .ofFn resetHead
  copy := { jobs := [], inFlight := none }
  answers := { own := [], relay := [], sending := none, heldBack := false, mode := .relayFirst, lost := 0, lastServed := .own }
  control := { state := .initializing, startUp := false, resetInput := true }
  outputs := { ports := .ofFn fun _ => [], thru := [], returned := [] }
  turn := 0
  pending := []

end Sys2Proof.Machine
end

