-- ==== Sys2Proof/Machine/Operands.lean ====
section
/-! DEFINITION. The operands of a taken packet: verb, outcome and state codes (R195, R197, R199), header fields (R193), the form of
each body (R195, R196), and the entries of a segment as bytes (R196). -/

namespace Sys2Proof.Machine

/-! ## Verbs and codes -/

/-- The seventeen verbs (R195). -/
inductive Verb where
  | discover
  | setAccept
  | setLink
  | setIntake
  | setGuard
  | setReturn
  | clearFault
  | readStatus
  | resetUnit
  | setTiming
  | start
  | stop
  | writeTable
  | readTable
  | sync
  | commit
  | cancel
deriving DecidableEq, Repr

/-- The verb codes (R195). -/
def verbCode : Verb → Byte
  | .discover => 0x10#8
  | .setAccept => 0x11#8
  | .setLink => 0x12#8
  | .setIntake => 0x13#8
  | .setGuard => 0x14#8
  | .setReturn => 0x15#8
  | .clearFault => 0x16#8
  | .readStatus => 0x17#8
  | .resetUnit => 0x18#8
  | .setTiming => 0x20#8
  | .start => 0x21#8
  | .stop => 0x22#8
  | .writeTable => 0x23#8
  | .readTable => 0x24#8
  | .sync => 0x25#8
  | .commit => 0x26#8
  | .cancel => 0x27#8

/-- The verbs in code order. -/
def allVerbs : List Verb :=
  [.discover, .setAccept, .setLink, .setIntake, .setGuard, .setReturn, .clearFault, .readStatus, .resetUnit, .setTiming, .start,
   .stop, .writeTable, .readTable, .sync, .commit, .cancel]

/-- The verb a code names, none where the code is unknown (R195). -/
def verbOf (code : Byte) : Option Verb := allVerbs.find? fun v => verbCode v == code

/-- The head verbs, whose head mask is examined (R136). -/
def isHeadVerb : Verb → Bool
  | .setTiming | .start | .stop | .writeTable | .readTable | .sync | .commit | .cancel => true
  | .discover | .setAccept | .setLink | .setIntake | .setGuard | .setReturn | .clearFault | .readStatus | .resetUnit => false

/-- The outcome codes (R197). -/
def outcomeByte : OutcomeCode → Byte
  | .done => 0x00#8
  | .armed => 0x01#8
  | .committed => 0x02#8
  | .cancelled => 0x03#8
  | .busy => 0x10#8
  | .badState => 0x11#8
  | .badArg => 0x12#8
  | .badForm => 0x13#8
  | .notReady => 0x14#8
  | .held => 0x15#8

/-- The table codes (R196). -/
def tableCode : Table → Nat
  | .mesh => 0
  | .blend => 1
  | .decode => 2
  | .encode => 3
  | .trim => 4

/-- The table a code names (R196). -/
def tableOf (code : Nat) : Option Table := allTables.find? fun t => tableCode t == code

/-- A flag or a yes-or-no field (R199). -/
def boolByte (b : Bool) : Byte := if b then 1#8 else 0#8

/-- Receiver state codes (R199). -/
def linkStateCode : LinkState → Nat
  | .noSignal => 0
  | .search => 1
  | .locked => 2
  | .coasting => 3

/-- Confinement codes (R199). -/
def confinementCode : Confinement → Nat
  | .active => 0
  | .reduced => 1
  | .mute => 2

/-- Fault kind codes (R199). -/
def faultKindCode : FaultKind → Nat
  | .check => 1
  | .form => 2
  | .lost => 3

/-- Head state codes (R199). -/
def headStateCode : HeadState → Nat
  | .parked => 0
  | .priming => 1
  | .run => 2
  | .fill => 3

/-- Unit state codes (R199). -/
def unitStateCode : UnitState → Nat
  | .initializing => 0
  | .ready => 1

/-- Intake mode codes (R195). -/
def intakeModeCode : IntakeMode → Nat
  | .overrun => 0
  | .overwrite => 1

/-- The intake mode a code names (R195). -/
def intakeModeOf (code : Nat) : Option IntakeMode :=
  if code = 0 then some .overrun else if code = 1 then some .overwrite else none

/-- Guard mode codes (R195). -/
def guardModeCode : GuardMode → Nat
  | .strict => 0
  | .lenient => 1

/-- The guard mode a code names (R195). -/
def guardModeOf (code : Nat) : Option GuardMode :=
  if code = 0 then some .strict else if code = 1 then some .lenient else none

/-- Merge mode codes (R195). -/
def mergeModeCode : MergeMode → Nat
  | .relayFirst => 0
  | .ownFirst => 1
  | .alternate => 2

/-- The merge mode a code names (R195). -/
def mergeModeOf (code : Nat) : Option MergeMode :=
  if code = 0 then some .relayFirst else if code = 1 then some .ownFirst else if code = 2 then some .alternate else none

/-- A source hop, or FFh for an unnumbered unit (R164, R197). -/
def hopByte : Option Byte → Byte
  | some h => h
  | none => 0xFF#8

/-! ## Header fields (R193) -/

/-- The answer-wanted flag: bit 7 of the flags byte. -/
def answerWanted (h : Header) : Bool := h.flags.getLsbD 7

/-- The heads a mask byte names: bit n names head Hn. -/
def maskOf (b : Byte) : HeadMask := .ofFn fun h => b.getLsbD (headIndex h)

/-- A head mask as a byte of an answer body: bits 3..0 (R193, R198). DESIGN CHOICE: bits 7..4, which the spec gives no value, go out
as 0 (assumption 25, unsafe). -/
def maskByte (m : HeadMask) : Byte :=
  byteOf ((maskHeads m).foldl (fun n h => n + 2 ^ headIndex h) 0)

/-- The head mask of a packet: bits 3..0 of the flags byte. -/
def packetMask (p : Packet) : HeadMask := maskOf p.header.flags

/-- The heads a packet's mask names, ascending. -/
def packetHeads (p : Packet) : List HeadId := maskHeads (packetMask p)

/-- The tables a table set byte names: bit 0 MESH to bit 4 TRIM; bits 7..5 are not examined. -/
def tableSetOf (b : Byte) : TableSet := .ofFn fun t => b.getLsbD (tableCode t)

/-- A table set as a byte of the status body: bits 4..0 (R193, R199). DESIGN CHOICE: bits 7..5, which the spec gives no value, go out
as 0, whatever the COMMIT carried there (assumption 25, unsafe). -/
def tableSetByte (ts : TableSet) : Byte :=
  byteOf ((setTables ts).foldl (fun n t => n + 2 ^ tableCode t) 0)

/-! ## Forms (R135, R195, R196) -/

/-- The size in bytes of one entry of a WRITE-TABLE body: none where the table code, or the BLEND form code, is not a defined
one (R196). -/
def entrySize (code form segment : Nat) : Option Nat :=
  match tableOf code with
  | some .mesh => some (if segment = 0 then 9 else 7)
  | some .blend => if form = 0 then some 2 else if form = 1 then some 4 else none
  | some .decode => some 2
  | some .encode => some 2
  | some .trim => some 2
  | none => none

/-- The body length that suits a verb, given the body that holds its counts (R195, R196). -/
def bodyLength (v : Verb) (body : List Byte) : Nat :=
  match v with
  | .discover => 2
  | .setAccept => 2 + natAt body 1
  | .setLink => 2
  | .setIntake => 1
  | .setGuard => 1
  | .setReturn => 1
  | .clearFault => 1
  | .readStatus => 0
  | .resetUnit => 0
  | .setTiming => 20
  | .start => 0
  | .stop => 0
  | .writeTable =>
    match entrySize (natAt body 0) (natAt body 1) (natAt body 2) with
    | some size => 4 + natAt body 3 * size
    | none => 4
  | .readTable => 3
  | .sync => 1
  | .commit => 3
  | .cancel => 1

/-- The form of a packet is correct for a verb when its body length is the one the verb calls for (R135). -/
def formCorrect (v : Verb) (p : Packet) : Bool := p.body.length == bodyLength v p.body

/-! ## Segments as bytes (R196) -/

/-- An integer bounded into a range (chapter 0, Arithmetic). -/
def clampInt (x lo hi : Int) : Int := max lo (min x hi)

/-- The bytes of entry `i` of a list of entries of one size. -/
def entryBytes (bs : List Byte) (size i : Nat) : List Byte := (bs.drop (i * size)).take size

/-- The mesh header that nine entry bytes write (R21, R196). -/
def readHeader (e : List Byte) : MeshHeader :=
  clampHeader (natAt2 e 0) (natAt2 e 2) (natAt2 e 4) (natAt2 e 6) (if natAt e 8 = 1 then .black else .extend)

/-- The mesh point that seven entry bytes write (R20, R196). -/
def readPoint (e : List Byte) : MeshPoint where
  sx := clampInt (intAt3 e 0) (-131072) 131071
  sy := clampInt (intAt3 e 3) (-131072) 131071
  blank := (byteAt e 6).getLsbD 0

/-- The blend point that an entry of one form writes (R48, R49, R196). -/
def readBlend (lifts : Bool) (e : List Byte) : BlendPoint where
  weight := min (natAt2 e 0) 4096
  lift := if lifts then some (min (natAt2 e 2) 4095) else none

/-- The trim that nine entries write (R45, R196). -/
def readTrim (bs : List Byte) : Trim where
  gain := ⟨min (natAt2 bs 0) 8191, min (natAt2 bs 2) 8191, min (natAt2 bs 4) 8191⟩
  offset := ⟨clampInt (intAt2 bs 6) (-4096) 4095, clampInt (intAt2 bs 8) (-4096) 4095, clampInt (intAt2 bs 10) (-4096) 4095⟩
  fill := ⟨min (natAt2 bs 12) 1023, min (natAt2 bs 14) 1023, min (natAt2 bs 16) 1023⟩

/-- The segment that `n` entries write, each stored with the clamping of its table's rule (R20, R21, R43, R45, R48, R49,
R56). -/
def readSegment (t : Table) (lifts : Bool) (segment n : Nat) (bs : List Byte) : Segment :=
  match t with
  | .mesh =>
    if segment = 0 then .header (readHeader bs)
    else .points ((List.range n).map fun i => readPoint (entryBytes bs 7 i))
  | .blend =>
    .blends ((List.range n).map fun i => readBlend lifts (entryBytes bs (if lifts then 4 else 2) i))
  | .decode => .values ((List.range n).map fun i => natAt2 (entryBytes bs 2 i) 0)
  | .encode => .values ((List.range n).map fun i => min (natAt2 (entryBytes bs 2 i) 0) 1023)
  | .trim => .trim (readTrim bs)

/-- A mesh header as its nine bytes (R196). -/
def headerEntry (h : MeshHeader) : List Byte :=
  natBytes2 h.ox ++ natBytes2 h.oy ++ natBytes2 h.wx ++ natBytes2 h.wy ++ [if h.edge = .black then 1#8 else 0#8]

/-- A mesh point as its seven bytes; bits 7..1 of its flags are 0 (R196). -/
def pointEntry (p : MeshPoint) : List Byte := intBytes3 p.sx ++ intBytes3 p.sy ++ [boolByte p.blank]

/-- A blend point as its bytes, with its lift where it has one (R196). -/
def blendEntry (q : BlendPoint) : List Byte :=
  natBytes2 q.weight ++ (match q.lift with | some l => natBytes2 l | none => [])

/-- The entries of TRIM as their eighteen bytes (R45, R196). -/
def trimEntries (t : Trim) : List Byte :=
  natBytes2 t.gain.r ++ natBytes2 t.gain.g ++ natBytes2 t.gain.b ++
  intBytes2 t.offset.r ++ intBytes2 t.offset.g ++ intBytes2 t.offset.b ++
  natBytes2 t.fill.r ++ natBytes2 t.fill.g ++ natBytes2 t.fill.b

/-- The entries of a stored segment as bytes, in ascending order (R90, R196). -/
def segmentBytes : Segment → List Byte
  | .header h => headerEntry h
  | .points row => row.flatMap pointEntry
  | .blends row => row.flatMap blendEntry
  | .values entries => entries.flatMap natBytes2
  | .trim t => trimEntries t

/-- How many entries a stored segment holds (R82). -/
def segmentEntries : Segment → Nat
  | .header _ => 1
  | .points row => row.length
  | .blends row => row.length
  | .values entries => entries.length
  | .trim _ => 9

/-- The form byte of a READ-TABLE answer: 01h where a blend segment's points hold their lifts, 00h otherwise (R198). -/
def segmentForm : Segment → Byte
  | .blends row => boolByte (row.any fun q => q.lift.isSome)
  | .header _ => 0#8
  | .points _ => 0#8
  | .values _ => 0#8
  | .trim _ => 0#8

/-- The head timing that a SET-TIMING body carries (R195). -/
def readTiming (body : List Byte) : Timing where
  width := natAt2 body 0
  height := natAt2 body 2
  k := natAt body 4
  b := natAt body 5
  delay := natAt2 body 6
  lineStep := natAt2 body 8
  fillPeriod := natAt2 body 10

/-- The identity mesh of a timing with the window that a SET-TIMING body carries (R22, R195). -/
def timingMesh (t : Timing) (body : List Byte) : Bank :=
  identityMesh t (natAt2 body 12) (natAt2 body 14) (natAt2 body 16) (natAt2 body 18)

/-- Each timing field lies in its range (R60). -/
def timingInRange (t : Timing) : Bool :=
  decide (256 ≤ t.width ∧ t.width ≤ 2048 ∧ t.width % 8 = 0) && decide (128 ≤ t.height ∧ t.height ≤ 1280) &&
  decide (4 ≤ t.k ∧ t.k ≤ 7) && decide (4 ≤ t.b ∧ t.b ≤ 6) && decide (t.delay ≤ 4095) &&
  decide (1024 ≤ t.lineStep ∧ t.lineStep ≤ 16384) && decide (8000 ≤ t.fillPeriod ∧ t.fillPeriod ≤ 50000)

/-- Gx and Gy each lie in 2..33 (R18). -/
def meshFits (t : Timing) : Bool :=
  decide (2 ≤ meshAcross t ∧ meshAcross t ≤ 33) && decide (2 ≤ meshDown t ∧ meshDown t ≤ 33)

/-- Bx and By are each at most 65 (R47). -/
def blendFits (t : Timing) : Bool := decide (blendAcross t ≤ 65) && decide (blendDown t ≤ 65)

end Sys2Proof.Machine
end

