-- ==== Sys2Proof/Machine/Flags.lean ====
section
/-! DEFINITION. The computed flags and counts of the link: confinement, WARN latch and MUTE recovery (chapter 8), and reports to the
fault record (R155). -/

namespace Sys2Proof.Machine

/-- A count 0..255 that adds 1 and stays at 255 once there (R129, R154, R168). -/
def countTo255 (n : Nat) : Nat := min 255 (n + 1)

/-- The confinement state, read from the error count (R149). -/
def confinementOf (errors : Nat) : Confinement :=
  if errors < 128 then .active else if errors ≤ 255 then .reduced else .mute

/-- The error count set to a new value, with the WARN latch and the re-arm flag following its crossing of 96 (R153). -/
def setErrors (e : Nat) (h : Health) : Health :=
  if h.errors < 96 ∧ 96 ≤ e then { h with errors := e, warn := h.warn || h.rearm, rearm := false }
  else if 96 ≤ h.errors ∧ e < 96 then { h with errors := e, rearm := true }
  else { h with errors := e }

/-- A failed check counted: E + 8, capped at 256; the MUTE recovery run begins again (R148, R152). -/
def countFailed (h : Health) : Health :=
  { setErrors (min 256 (h.errors + 8)) h with muteRun := 0 }

/-- A good check counted: E − 1, floored at 0; in MUTE the recovery run instead, whose 64th packet sets E to 0 (R148, R152). -/
def countGood (h : Health) : Health :=
  match confinementOf h.errors with
  | .mute =>
    if 63 ≤ h.muteRun then { setErrors 0 h with muteRun := 0 } else { h with muteRun := h.muteRun + 1 }
  | .active => setErrors (h.errors - 1) h
  | .reduced => setErrors (h.errors - 1) h

/-- A fault reported to the record: an empty record takes it, an occupied one counts it (R155). -/
def reportFault (kind : FaultKind) (complete : Bool) (header : Header) (frame : Byte) (r : FaultRecord) : FaultRecord :=
  match r.entry with
  | none => { r with entry := some { kind := kind, complete := complete, header := header, frame := frame, overflow := 0 } }
  | some e => { r with entry := some { e with overflow := countTo255 e.overflow } }

/-- Whether the guard lets COMMIT and SET-TIMING pass: LENIENT, or an empty fault record (R158). -/
def guardPasses (r : FaultRecord) : Bool := r.guard == .lenient || r.entry.isNone

/-- The three event flags of a head as one byte: bit 0 parked, bit 1 committed, bit 2 fill-entered (R199). DESIGN CHOICE: bits
7..3, which the spec gives no value, go out as 0 (assumption 25, unsafe). -/
def eventFlagsByte (h : Head) : Byte :=
  byteOf ((if h.parkedFlag then 1 else 0) + (if h.committedFlag then 2 else 0) + (if h.fillFlag then 4 else 0))

end Sys2Proof.Machine
end

