-- ==== Sys2Proof/Machine/Warp.lean ====
section
/-! DEFINITION. The warp unit (chapter 2): from an output pixel to its taps, through mesh, window and reach. -/

namespace Sys2Proof.Machine

/-- What a release reads besides the head's own tables: the current input geometry and the lines the ring holds (R23). -/
structure View where
  width : Nat
  height : Nat
  ring : List RingLine
deriving DecidableEq, Repr

/-- The mesh header of a MESH bank (segment 0, R19). -/
def bankHeader (bank : Bank) : MeshHeader :=
  match bank.head? with
  | some (.header h) => h
  | _ => clampHeader 0 0 0 0 .extend

/-- Mesh point (i, j) of a MESH bank: entry i of segment j + 1 (R19). -/
def bankPoint (bank : Bank) (i j : Nat) : MeshPoint :=
  match bank[j + 1]? with
  | some (.points row) => row.getD i { sx := 0, sy := 0, blank := false }
  | _ => { sx := 0, sy := 0, blank := false }

/-- The rounded bilinear mean of four corner values over a cell of size `c`: the sum of weight times value, plus half of c²,
divided by c² with the floor (R25, R51, R52). -/
def bilinear (c fx fy : Nat) (v00 v10 v01 v11 : Int) : Int :=
  ((c - fx : Int) * (c - fy) * v00 + (fx : Int) * (c - fy) * v10 + (c - fx : Int) * fy * v01 + (fx : Int) * fy * v11
    + (c : Int) * c / 2) / ((c : Int) * c)

/-- A tap handed to the light unit: its weight in 1/256, its value, and whether it was a reach miss (R32, R34). -/
structure Tap where
  weight : Nat
  value : Pixel
  missed : Bool
deriving DecidableEq, Repr

/-- What the warp unit hands over for one output pixel: a blank mark, or its fetched taps (R23). -/
inductive Sample where
  | blank
  | taps (ts : List Tap)
deriving DecidableEq, Repr

/-- Code 0 on all three channels. -/
def blackPixel : Pixel := ⟨0, 0, 0⟩

/-- A pixel of a held line, by row and column (R13). -/
def ringPixel (ring : List RingLine) (row col : Int) : Pixel :=
  match ring.find? fun l => (l.number : Int) == row with
  | some l => l.pixels.getD col.toNat blackPixel
  | none => blackPixel

/-- The reach step: a tap outside the held rows is moved to the nearest held row and is a reach miss; with an empty ring it
takes the value 0 and is a reach miss (R32, R33). -/
def reach (ring : List RingLine) (row col : Int) : Pixel × Bool :=
  match ring.head?, ring.getLast? with
  | some lo, some hi =>
    let r := max (lo.number : Int) (min row hi.number)
    (ringPixel ring r col, r != row)
  | _, _ => (blackPixel, true)

/-- The window step and the reach step for one fetched tap (R29 to R33): its value and whether it is a reach miss. -/
def fetchTap (v : View) (h : MeshHeader) (row col : Int) : Pixel × Bool :=
  let left : Int := h.ox
  let right : Int := min (h.ox + h.wx : Int) v.width - 1
  let top : Int := h.oy
  let bottom : Int := min (h.oy + h.wy : Int) v.height - 1
  if right < left ∨ bottom < top then (blackPixel, false)
  else if left ≤ col ∧ col ≤ right ∧ top ≤ row ∧ row ≤ bottom then reach v.ring row col
  else match h.edge with
    | .extend => reach v.ring (max top (min row bottom)) (max left (min col right))
    | .black => (blackPixel, false)

/-- The four taps of a source coordinate, each as row, column and weight (R27). -/
def tapPlaces (sx sy : Int) : List (Int × Int × Nat) :=
  let ix := sx / 16
  let iy := sy / 16
  let ax := (sx % 16).toNat
  let ay := (sy % 16).toNat
  [(iy, ix, (16 - ax) * (16 - ay)), (iy, ix + 1, ax * (16 - ay)), (iy + 1, ix, (16 - ax) * ay), (iy + 1, ix + 1, ax * ay)]

/-- The fetched taps of a source coordinate: those whose weight is not 0 (R28). -/
def sampleAt (v : View) (h : MeshHeader) (sx sy : Int) : List Tap :=
  ((tapPlaces sx sy).filter fun p => p.2.2 != 0).map fun p =>
    let f := fetchTap v h p.1 p.2.1
    { weight := p.2.2, value := f.1, missed := f.2 }

/-- The source coordinate of output pixel (u, v) under a MESH bank with cell size `c` (R24, R25). -/
def sourceCoordinate (bank : Bank) (c u v : Nat) : Int × Int :=
  let i := u / c
  let j := v / c
  let fx := u % c
  let fy := v % c
  let p00 := bankPoint bank i j
  let p10 := bankPoint bank (i + 1) j
  let p01 := bankPoint bank i (j + 1)
  let p11 := bankPoint bank (i + 1) (j + 1)
  (bilinear c fx fy p00.sx p10.sx p01.sx p11.sx, bilinear c fx fy p00.sy p10.sy p01.sy p11.sy)

/-- Whether any corner of the cell of output pixel (u, v) is blank (R26). -/
def cellBlank (bank : Bank) (c u v : Nat) : Bool :=
  let i := u / c
  let j := v / c
  (bankPoint bank i j).blank || (bankPoint bank (i + 1) j).blank || (bankPoint bank i (j + 1)).blank ||
    (bankPoint bank (i + 1) (j + 1)).blank

/-- What the warp unit hands over for output pixel (u, v) (R23, R26). -/
def samplePixel (view : View) (bank : Bank) (c u v : Nat) : Sample :=
  if cellBlank bank c u v then .blank
  else
    let s := sourceCoordinate bank c u v
    .taps (sampleAt view (bankHeader bank) s.1 s.2)

/-- The release line R(y) of an output line (R62). -/
def releaseLine (t : Timing) (y : Nat) : Nat := t.delay + y * t.lineStep / 4096

/-- Whether mesh point (i, j) is out of reach at its release (R38). -/
def outOfReach (t : Timing) (bank : Bank) (i j : Nat) : Bool :=
  let r : Int := releaseLine t (min (j * meshCell t) (t.height - 1))
  let sy := (bankPoint bank i j).sy
  let iy := sy / 16
  let highest := if sy % 16 > 0 then iy + 1 else iy
  decide (iy < r - 255) || decide (highest > r)

/-- The reach audit: how many points of a MESH bank are out of reach under a timing (R38). -/
def reachAudit (t : Timing) (bank : Bank) : Nat :=
  ((List.range (meshDown t)).map fun j =>
    ((List.range (meshAcross t)).filter fun i => outOfReach t bank i j).length).sum

end Sys2Proof.Machine
end

