-- ==== Sys2Proof/Machine/Light.lean ====
section
/-! DEFINITION. The light unit (chapter 3): from taps to output codes, and the forming of whole lines. -/

namespace Sys2Proof.Machine

/-- Entry `e` of a DECODE or ENCODE bank, kept in segments of 64 (R43, R56). -/
def bankValue (bank : Bank) (e : Nat) : Nat :=
  match bank[e / 64]? with
  | some (.values entries) => entries.getD (e % 64) 0
  | _ => 0

/-- The entries of a TRIM bank (R45). -/
def bankTrim (bank : Bank) : Trim :=
  match bank.head? with
  | some (.trim t) => t
  | _ => { gain := ⟨0, 0, 0⟩, offset := ⟨0, 0, 0⟩, fill := ⟨0, 0, 0⟩ }

/-- Blend point (m, n) of a BLEND bank (R49). -/
def bankBlend (bank : Bank) (m n : Nat) : BlendPoint :=
  match bank[n]? with
  | some (.blends row) => row.getD m { weight := 0, lift := none }
  | _ => { weight := 0, lift := none }

/-- The tap filter on one channel: the weighted sum of codes, plus 128, divided by 256 (R42). -/
def tapFilter (channel : Pixel → Nat) (ts : List Tap) : Nat :=
  ((ts.map fun t => t.weight * channel t.value).sum + 128) / 256

/-- The trim stage (R46). -/
def trimLight (gain : Nat) (offset : Int) (l : Nat) : Nat :=
  (max 0 (min (((l * gain + 2048) / 4096 : Nat) + offset) 65535)).toNat

/-- The weighted light (R53). -/
def weightLight (l1 w : Nat) : Nat := (l1 * w + 2048) / 4096

/-- The lift taper (R54). -/
def taperLift (k l1 : Nat) : Nat := k * (65536 - l1) / 65536

/-- One channel of one pixel, from its input code to its output code (R43, R46, R53 to R56). -/
def lightChannel (decode encode : Bank) (gain : Nat) (offset : Int) (w k e : Nat) : Nat :=
  let l1 := trimLight gain offset (bankValue decode e)
  let l2 := min 65535 (weightLight l1 w + taperLift k l1)
  bankValue encode (l2 / 16)

/-- The blend weight W of output pixel (u, v) (R51). -/
def blendWeight (bank : Bank) (c u v : Nat) : Nat :=
  let m := u / c
  let n := v / c
  let q (i j : Nat) : Int := (bankBlend bank (m + i) (n + j)).weight
  (bilinear c (u % c) (v % c) (q 0 0) (q 1 0) (q 0 1) (q 1 1)).toNat

/-- The lift K of output pixel (u, v); an absent lift enters as 0 (R52). -/
def blendLift (bank : Bank) (c u v : Nat) : Nat :=
  let m := u / c
  let n := v / c
  let q (i j : Nat) : Int := ((bankBlend bank (m + i) (n + j)).lift.getD 0 : Nat)
  (bilinear c (u % c) (v % c) (q 0 0) (q 1 0) (q 0 1) (q 1 1)).toNat

/-- The output codes of one pixel: code 0 for a blank pixel (R58), the light path on each channel otherwise (R40, R41). -/
def lightPixel (head : Head) (u v : Nat) : Sample → Pixel
  | .blank => blackPixel
  | .taps ts =>
    let trim := bankTrim head.pairs.trim.live
    let w := blendWeight head.pairs.blend.live (blendCell head.timing) u v
    let k := blendLift head.pairs.blend.live (blendCell head.timing) u v
    let out (gain : Nat) (offset : Int) (channel : Pixel → Nat) : Nat :=
      lightChannel head.pairs.decode.live head.pairs.encode.live gain offset w k (tapFilter channel ts)
    ⟨out trim.gain.r trim.offset.r (·.r), out trim.gain.g trim.offset.g (·.g), out trim.gain.b trim.offset.b (·.b)⟩

/-- Whether a sample holds a reach miss; a blank pixel never does (R26, R35). -/
def sampleMissed : Sample → Bool
  | .blank => false
  | .taps ts => ts.any (·.missed)

/-- Output line `y` of a head, formed whole, and whether it holds a reach miss (R35, R64). -/
def formLine (view : View) (head : Head) (y : Nat) : List Pixel × Bool :=
  let samples := (List.range head.timing.width).map fun u =>
    samplePixel view head.pairs.mesh.live (meshCell head.timing) u y
  ((List.range head.timing.width).zipWith (fun u s => lightPixel head u y s) samples, samples.any sampleMissed)

/-- A fill line of a head: the fill codes of its live TRIM on every pixel (R59). -/
def fillLine (head : Head) : List Pixel :=
  List.replicate head.timing.width (bankTrim head.pairs.trim.live).fill

end Sys2Proof.Machine
end

