-- ==== Sys2Proof/Machine/Sequencer.lean ====
section
/-! DEFINITION. The head sequencer (chapter 4): what one head does at each event handed to it, and the swap (R100). -/

namespace Sys2Proof.Machine

/-- One head in the course of an event: the head, what its port has emitted at this event, and the armed commit it has
swapped, if any. -/
structure HeadRun where
  head : Head
  emitted : List PortItem
  swapped : Option ArmedCommit
deriving DecidableEq, Repr

/-- A head at the beginning of an event. -/
def beginRun (h : Head) : HeadRun := { head := h, emitted := [], swapped := none }

/-! ## Swaps (section 5.6) -/

/-- One pair swapped: the shadow becomes the live bank, the old live bank becomes the shadow, with empty coverage (R100). -/
def swapPair (p : Pair) : Pair := { live := p.shadow, shadow := p.live, coverage := [] }

/-- A head after its armed commit `c` has swapped: the listed tables exchange banks, the commit is consumed and the committed
flag is set (R75, R100). -/
def swapHead (c : ArmedCommit) (h : Head) : Head :=
  { h with
    pairs := .ofFn fun t => if c.tables.get t then swapPair (h.pairs.get t) else h.pairs.get t
    armed := none
    committedFlag := true }

/-- The swap of the head's armed commit, where it has one that is due. -/
def swapWhen (due : ArmedCommit → Bool) (r : HeadRun) : HeadRun :=
  match r.head.armed with
  | some c => if due c then { r with head := swapHead c r.head, swapped := some c } else r
  | none => r

/-- When a commit is due at a head frame start: an untagged one always, a tagged one where a frame start or regain with its
number caused it; `none` is the fill timer (R68, R99). -/
def dueAtFrame (frame : Option Byte) (c : ArmedCommit) : Bool :=
  match c.frameTag with
  | none => true
  | some t => frame == some t

/-- When a commit is due at a frame start handed to a parked head: a tagged one whose tag is the frame number (R69, R101). -/
def dueWhileParked (frame : Byte) (c : ArmedCommit) : Bool := c.frameTag == some frame

/-- When a commit is due at the parking of its head: an untagged one (R81, R101). -/
def dueAtParking (c : ArmedCommit) : Bool := c.frameTag == none

/-! ## Frames and lines -/

/-- The running reach-miss line count copied into the latched count and set to 0 (R36). -/
def latchMisses (h : Head) : Head := { h with missLatched := h.missRunning, missRunning := 0 }

/-- A head frame start, of a frame start or regain with its number or of the fill timer (R68): latch, swap where due, next
line 0, a new output frame at the port. -/
def headFrameStart (frame : Option Byte) (r : HeadRun) : HeadRun :=
  let swapped := swapWhen (dueAtFrame frame) { r with head := latchMisses r.head }
  { swapped with head := { swapped.head with nextLine := 0 }, emitted := swapped.emitted ++ [.frameBegin] }

/-- Parking, by STOP or at the end of a stop-pending frame (R81). -/
def park (r : HeadRun) : HeadRun :=
  swapWhen dueAtParking
    { r with head := { latchMisses r.head with
        state := .parked, stopPending := false, fillTimer := none, nextLine := 0, parkedFlag := true } }

/-- The output lines still owed by a head (R63). -/
def owedLines (h : Head) : List Nat := List.range' h.nextLine (h.timing.height - h.nextLine)

/-- The given output lines formed and emitted in order; those with a reach miss are counted (R35, R64). -/
def formLines (view : View) (ys : List Nat) (r : HeadRun) : HeadRun :=
  let formed := ys.map (formLine view r.head)
  let missed := formed.countP (·.2)
  { r with
    head := { r.head with
      nextLine := r.head.nextLine + ys.length
      missRunning := r.head.missRunning + missed
      missTotal := min 65535 (r.head.missTotal + missed) }
    emitted := r.emitted ++ formed.map fun f => .line f.1 }

/-- The owed lines emitted as fill lines (R59, R71, R72). -/
def fillOwed (r : HeadRun) : HeadRun :=
  { r with
    head := { r.head with nextLine := r.head.timing.height }
    emitted := r.emitted ++ List.replicate (r.head.timing.height - r.head.nextLine) (.line (fillLine r.head)) }

/-- One short frame counted (R66). -/
def countShort (r : HeadRun) : HeadRun :=
  { r with head := { r.head with shortFrames := min 65535 (r.head.shortFrames + 1) } }

/-- The end of an input frame for a head in RUN: owed lines are formed for a truncated frame (R65), or emitted as fill where
`asFill` (R71, R72), and one short frame is counted; nothing where no line is owed. -/
def endFrame (view : View) (asFill : Bool) (r : HeadRun) : HeadRun :=
  if r.head.nextLine < r.head.timing.height then
    countShort (if asFill then fillOwed r else formLines view (owedLines r.head) r)
  else r

/-- A head moved into FILL, its fill timer started and its fill-entered flag set (R70, R72, R75, R78). -/
def enterFill (h : Head) : Head :=
  { h with state := .fill, fillTimer := some h.timing.fillPeriod, fillFlag := true }

/-! ## The events handed to a head (R17) -/

/-- A frame start or regain with its number, handed to a head (R65, R69, R70, R71, R74, R80). -/
def takeFrameStart (view : View) (regain : Bool) (frame : Byte) (h : Head) : HeadRun :=
  match h.state with
  | .parked => swapWhen (dueWhileParked frame) (beginRun h)
  | .priming => headFrameStart (some frame) (beginRun { h with state := .run })
  | .fill => headFrameStart (some frame) (beginRun { h with state := .run, fillTimer := none })
  | .run =>
    let ended := endFrame view regain (beginRun h)
    if h.stopPending then swapWhen (dueWhileParked frame) (park ended) else headFrameStart (some frame) ended

/-- The output lines a head in RUN releases at the completion of input line `n`: those from the next line on whose release
line min(R(y), H_in − 1) is `n` or less (R62, R63). -/
def dueLines (view : View) (n : Nat) (h : Head) : List Nat :=
  (owedLines h).takeWhile fun y => decide (min (releaseLine h.timing y) (view.height - 1) ≤ n)

/-- The completion of input line `n`, handed to a head (R63, R64, R80). -/
def takeLine (view : View) (n : Nat) (h : Head) : HeadRun :=
  match h.state with
  | .run =>
    let r := formLines view (dueLines view n h) (beginRun h)
    if h.stopPending && decide (h.timing.height ≤ r.head.nextLine) then park r else r
  | .parked => beginRun h
  | .priming => beginRun h
  | .fill => beginRun h

/-- An absence expiry handed to a head (R69, R70, R72, R74). -/
def takeAbsence (view : View) (h : Head) : HeadRun :=
  match h.state with
  | .parked => beginRun h
  | .fill => beginRun h
  | .priming => beginRun (enterFill h)
  | .run =>
    let ended := endFrame view true (beginRun h)
    if h.stopPending then park ended else { ended with head := enterFill ended.head }

/-- A fill timer expiry of a head in FILL: a head frame start, then one whole fill frame of the fill codes that stand after
it; the timer restarts (R73). -/
def takeFillTimer (h : Head) : HeadRun :=
  let r := headFrameStart none (beginRun h)
  let filled := fillOwed r
  { filled with head := { filled.head with fillTimer := some h.timing.fillPeriod } }

/-- STOP taken for one head (R79): no effect on a head that is parked or already stopping, stop-pending where lines are owed,
parking otherwise. -/
def takeStop (h : Head) : HeadRun :=
  match h.state with
  | .parked => beginRun h
  | .priming => park (beginRun h)
  | .fill => park (beginRun h)
  | .run =>
    if h.stopPending then beginRun h
    else if h.nextLine < h.timing.height then beginRun { h with stopPending := true }
    else park (beginRun h)

/-- START taken for one parked head (R78). -/
def startHead (locked : Bool) (h : Head) : Head :=
  let up := { h with nextLine := 0 }
  if locked then { up with state := .priming } else enterFill up

/-- A head as the take of RESET-UNIT leaves it: parked at once, with the default timing, every counter and flag cleared and
its armed commit removed; its banks wait for initialization (R180, R184). -/
def resetUnitHead (id : HeadId) (h : Head) : Head := { resetHead id with pairs := h.pairs }

end Sys2Proof.Machine
end

