-- ==== Sys2Proof/Machine/Ops.lean ====
section
/-! DEFINITION. The named operations the commands share: what is running, the acceptance map, answers and their queue, shadow states,
the copy engine, events handed to the heads, and the take of a packet with its judgements. -/

namespace Sys2Proof.Machine

/-! ## The reset input -/

/-- The effect of an event on a part whose reset input is released; while it is asserted the event has no effect
(assumption 5). -/
def whileReleased (f : State → State) (s : State) : State :=
  if s.control.resetInput then s else f s

/-! ## Readings of the state -/

/-- What the heads' warp units read of the receiver and the ring (R23). -/
def viewOf (s : State) : View := { width := s.receiver.width, height := s.receiver.height, ring := s.ring }

/-- The confinement state (R149). -/
def confinement (s : State) : Confinement := confinementOf s.health.errors

/-- The acceptance map: the unit address, the group addresses and 255 (R114, R117). -/
def acceptanceMap (f : PacketFilter) : List Byte := f.hop.toList ++ f.groups ++ [0xFF#8]

/-- Whether the coverage of a pair holds every segment of the bank's shape (R84, R85). The shape is the bank's own, which differs
from the head's timing only between the take of SET-TIMING and its generation (R77, assumption 10). -/
def coverageFull (p : Pair) : Bool := (List.range p.shadow.length).all fun seg => p.coverage.contains seg

/-- The five shadow states (R85). -/
inductive ShadowState where
  | stale
  | part
  | syncing
  | ready
  | armed
deriving DecidableEq, Repr

/-- Shadow state codes (R199). -/
def shadowStateCode : ShadowState → Nat
  | .stale => 0
  | .part => 1
  | .syncing => 2
  | .ready => 3
  | .armed => 4

/-- Whether a head's armed commit lists a table (R85). -/
def armedLists (h : Head) (t : Table) : Bool :=
  match h.armed with
  | some c => c.tables.get t
  | none => false

/-- Whether the sync job list holds a job for a pair (R85, R91). -/
def hasJob (jobs : List SyncJob) (h : HeadId) (t : Table) : Bool :=
  jobs.any fun j => j.head == h && j.table == t

/-- The state of a shadow bank: the first condition of R85 that holds. -/
def shadowState (s : State) (h : HeadId) (t : Table) : ShadowState :=
  let head := s.heads.get h
  let pair := head.pairs.get t
  if armedLists head t then .armed
  else if hasJob s.copy.jobs h t then .syncing
  else if coverageFull pair then .ready
  else if pair.coverage = [] then .stale
  else .part

/-! ## Answers (R139, R150, R164 to R168) -/

/-- Whether the confinement state lets an answer with this verb echo be generated (R150). -/
def answerAllowed (c : Confinement) (verb : Byte) : Bool :=
  match c with
  | .active => true
  | .reduced => verb == verbCode .readStatus
  | .mute => false

/-- A generated answer joins the own answer queue; where it holds 4 the answer is dropped and counted (R167, R168). -/
def queueAnswer (a : Answer) (x : AnswerSide) : AnswerSide :=
  if x.own.length < 4 then { x with own := x.own ++ [a] } else { x with lost := countTo255 x.lost }

/-- The head index field of an answer (R197). -/
def headByte : Option HeadId → Byte
  | some h => byteOf (headIndex h)
  | none => 0xFF#8

/-- The answer a unit with hop `hop` makes (R164, R197). -/
def makeAnswer (hop : Option Byte) (verb tag : Byte) (o : OutcomeCode) (head : Option HeadId) (body : List Byte) : Answer :=
  sealAnswer (hopByte hop) verb tag (outcomeByte o) (headByte head) body

/-- An answer generated where its flag is set and the confinement state allows it; otherwise it leaves no trace (R150, R165). -/
def generate (verb tag : Byte) (wanted : Bool) (o : OutcomeCode) (head : Option HeadId) (body : List Byte) (s : State) : State :=
  if wanted && answerAllowed (confinement s) verb then
    { s with answers := queueAnswer (makeAnswer s.filter.hop verb tag o head body) s.answers }
  else s

/-- The answer to a taken packet (R139). -/
def answerPacket (p : Packet) (o : OutcomeCode) (body : List Byte) (s : State) : State :=
  generate p.header.verb p.header.tag (answerWanted p.header) o none body s

/-- The COMMITTED answer of a swap (R100). -/
def answerCommitted (h : HeadId) (c : ArmedCommit) (s : State) : State :=
  generate (verbCode .commit) c.tag c.wanted .committed (some h) [] s

/-- The CANCELLED answer of a withdrawn armed commit (R104). -/
def answerWithdrawn (h : HeadId) (c : ArmedCommit) (s : State) : State :=
  generate (verbCode .commit) c.tag c.wanted .cancelled (some h) [] s

/-- The answer that ends a sync job (R94, R104). -/
def answerJob (j : SyncJob) (o : OutcomeCode) (s : State) : State :=
  generate (verbCode .sync) j.tag j.wanted o (some j.head) [byteOf (tableCode j.table)] s

/-! ## Events handed to the heads (R17) -/

/-- One of the 24 orders of the four heads, chosen by a number. -/
def headOrder (n : Nat) : List HeadId :=
  ((([HeadId.h0].insertIdx (n % 2) HeadId.h1).insertIdx (n / 2 % 3) HeadId.h2).insertIdx (n / 6 % 4) HeadId.h3)

/-- The heads and ports after each head's part of an event. -/
def applyRuns (runs : PerHead HeadRun) (s : State) : State :=
  { s with
    heads := .ofFn fun h => (runs.get h).head
    outputs := { s.outputs with ports := .ofFn fun h => s.outputs.ports.get h ++ (runs.get h).emitted } }

/-- The COMMITTED answers of the swaps of an event, in a given order of the heads. -/
def answerSwaps (order : List HeadId) (runs : PerHead HeadRun) (s : State) : State :=
  order.foldl (fun s h => match (runs.get h).swapped with | some c => answerCommitted h c s | none => s) s

/-- An event handed to all four heads: each acts on its own state, and the order of their COMMITTED answers is free (R17,
R102, R166, assumption 7). -/
def handToHeads (f : Head → HeadRun) (s : State) : State :=
  let runs : PerHead HeadRun := .ofFn fun h => f (s.heads.get h)
  answerSwaps (headOrder (Config.headTurn s.turn)) runs { applyRuns runs s with turn := s.turn + 1 }

/-- An event of the heads that a verb names, taken in ascending head index (R82). -/
def runHeads (f : HeadId → Head → HeadRun) (s : State) : State :=
  let runs : PerHead HeadRun := .ofFn fun h => f h (s.heads.get h)
  answerSwaps allHeads runs (applyRuns runs s)

/-! ## The copy engine (R93) -/

/-- The lowest segment that is not current in a pair's shadow (R93). -/
def lowestMissing (p : Pair) : Option Nat := (List.range p.shadow.length).find? fun seg => !p.coverage.contains seg

/-- The segment copy the engine begins: for the oldest job, its lowest segment that is not current; none while the list is
empty (R93). -/
def nextCopy (heads : PerHead Head) (jobs : List SyncJob) : Option SegmentCopy :=
  match jobs.head? with
  | some j =>
    (lowestMissing ((heads.get j.head).pairs.get j.table)).map fun seg =>
      { head := j.head, table := j.table, segment := seg }
  | none => none

/-- The engine after its job list has changed: a copy in flight whose job is still listed goes on; otherwise it is discarded,
and the engine begins a copy for the oldest job, or is idle (R77, R93, R104). -/
def resumeCopy (s : State) : State :=
  match s.copy.inFlight with
  | some c =>
    if hasJob s.copy.jobs c.head c.table then s
    else { s with copy := { s.copy with inFlight := nextCopy s.heads s.copy.jobs } }
  | none => { s with copy := { s.copy with inFlight := nextCopy s.heads s.copy.jobs } }

/-- The jobs of a list that are for a pair, and the list without them. -/
def jobsOf (jobs : List SyncJob) (h : HeadId) (t : Table) : List SyncJob :=
  jobs.filter fun j => j.head == h && j.table == t

/-- A job list without the jobs for a pair; the order of the others is kept (R104). -/
def withoutJob (jobs : List SyncJob) (h : HeadId) (t : Table) : List SyncJob :=
  jobs.filter fun j => !(j.head == h && j.table == t)

/-- The sync jobs of a pair removed, with a CANCELLED answer for each (R77, R104). -/
def removeJob (h : HeadId) (s : State) (t : Table) : State :=
  (jobsOf s.copy.jobs h t).foldl (fun s j => answerJob j .cancelled s)
    { s with copy := { s.copy with jobs := withoutJob s.copy.jobs h t } }

/-- The armed commit of a head withdrawn, with its CANCELLED answer (R77, R104). -/
def withdraw (h : HeadId) (s : State) : State :=
  match (s.heads.get h).armed with
  | some c => answerWithdrawn h c { s with heads := s.heads.set h { s.heads.get h with armed := none } }
  | none => s

/-! ## Segments written into a shadow (R84, R87, R93) -/

/-- A segment index joined to a coverage, which stays in ascending order without repeats (R84). -/
def coverInsert (seg : Nat) : List Nat → List Nat
  | [] => [seg]
  | x :: xs => if seg < x then seg :: x :: xs else if seg = x then x :: xs else x :: coverInsert seg xs

/-- A segment stored whole into a shadow bank; it joins the coverage (R84). -/
def storeSegment (seg : Nat) (data : Segment) (p : Pair) : Pair :=
  { p with shadow := p.shadow.set seg data, coverage := coverInsert seg p.coverage }

/-- One pair of one head changed. -/
def changePair (h : HeadId) (t : Table) (f : Pair → Pair) (s : State) : State :=
  let head := s.heads.get h
  { s with heads := s.heads.set h { head with pairs := head.pairs.set t (f (head.pairs.get t)) } }

/-! ## Intake (R126 to R129) -/

/-- A packet lost at a full queue: counted, and reported as a LOST fault with its own header (R129). -/
def loseInIntake (p : Packet) (s : State) : State :=
  { s with
    intake := { s.intake with lost := countTo255 s.intake.lost }
    fault := reportFault .lost true p.header s.receiver.frame s.fault }

/-- A packet that the filter accepted arrives at the intake queue (R126 to R128). -/
def queuePacket (p : Packet) (s : State) : State :=
  if s.intake.queue.length < 4 then { s with intake := { s.intake with queue := s.intake.queue ++ [p] } }
  else match s.intake.mode with
    | .overrun => loseInIntake p s
    | .overwrite =>
      match s.intake.queue with
      | oldest :: rest => loseInIntake oldest { s with intake := { s.intake with queue := rest ++ [p] } }
      | [] => s

/-! ## Taking a packet (section 7.3) -/

/-- What a verb's own rule makes of a packet whose form and head mask were good (R137). -/
inductive Verdict where
  /-- The verb is refused with this outcome and has no effect. -/
  | refuse (o : OutcomeCode)
  /-- The verb is carried out; the state after the take. -/
  | carryOut (s : State)
deriving DecidableEq, Repr

/-- A refusal: written to the last-refusal record and answered, with an empty body (R137, R139, R140). -/
def refuseTake (o : OutcomeCode) (p : Packet) (s : State) : State :=
  answerPacket p o []
    { s with loader := { s.loader with
        lastRefusal := some { verb := p.header.verb, tag := p.header.tag, outcome := o, frame := s.receiver.frame } } }

/-- A refusal for form, reported to the fault record as well (R135). -/
def refuseForm (p : Packet) (s : State) : State :=
  refuseTake .badForm p { s with fault := reportFault .form true p.header s.receiver.frame s.fault }

/-- The packet the loader takes next and the state with it removed from the queue: present when the loader is idle, the unit
READY and the intake queue not empty (R134). -/
def nextTake (s : State) : Option (Packet × State) :=
  if s.loader.state = .idle ∧ s.control.state = .ready then
    match s.intake.queue with
    | p :: rest => some (p, { s with intake := { s.intake with queue := rest } })
    | [] => none
  else none

/-- The judgements of a take, in order: form, head mask, the verb's own rule (R135 to R137). -/
def judge (v : Verb) (rule : Packet → State → Verdict) (p : Packet) (s : State) : State :=
  if formCorrect v p = false then refuseForm p s
  else if isHeadVerb v = true ∧ packetHeads p = [] then refuseTake .badArg p s
  else match rule p s with
    | .refuse o => refuseTake o p s
    | .carryOut s' => s'

/-- The take of the oldest queued packet as the verb `v`: nothing happens where no take is due, or where that packet's verb is
another one (assumption 1). -/
def takeVerb (v : Verb) (rule : Packet → State → Verdict) (s : State) : State :=
  match nextTake s with
  | some (p, s') => if verbOf p.header.verb = some v then judge v rule p s' else s
  | none => s

/-- Carried out at the take with outcome DONE and this answer body (R139, R141). -/
def doneWith (p : Packet) (body : List Byte) (s : State) : Verdict := .carryOut (answerPacket p .done body s)

end Sys2Proof.Machine
end

