-- ==== Sys2Proof/Machine/HeadVerbs.lean ====
section
/-! DEFINITION. The timing and run verbs, generation completion and the fill timer expiry (chapter 4). -/

namespace Sys2Proof.Machine

/-! ## FILL_TIMER_EXPIRY (R73) -/

/-- A fill timer expiry of one head, which falls only in FILL with its timer running (R73). -/
def fillTimerExpiry (h : HeadId) (s : State) : State :=
  if (s.heads.get h).state = .fill ∧ (s.heads.get h).fillTimer.isSome then
    runHeads (fun k head => if k = h then takeFillTimer head else beginRun head) s
  else s

/-- FILL_TIMER_EXPIRY. -/
def execFillTimerExpiry (h : HeadId) (s : State) : Host.Outcome State Fault Refusal :=
  .next (whileReleased (fillTimerExpiry h) s)

/-! ## SET-TIMING (R76, R77) -/

/-- What the take of an accepted SET-TIMING does: the new timing, the line counts and the next line set to 0, the armed commit
and the MESH and BLEND jobs of the head withdrawn with their answers in that order, and the loader busy with generation
(R77). -/
def beginGeneration (p : Packet) (h : HeadId) (s : State) : State :=
  let retimed := { s.heads.get h with timing := readTiming p.body, missRunning := 0, missLatched := 0, nextLine := 0 }
  let s1 : State := { s with heads := s.heads.set h retimed, loader := { s.loader with state := .generating p } }
  resumeCopy ([Table.mesh, Table.blend].foldl (removeJob h) (withdraw h s1))

/-- SET-TIMING's own rule: its checks in the order of R76. -/
def ruleSetTiming (p : Packet) (s : State) : Verdict :=
  match packetHeads p with
  | [h] =>
    if (s.heads.get h).state ≠ .parked then .refuse .badState
    else if guardPasses s.fault = false then .refuse .held
    else if timingInRange (readTiming p.body) = false then .refuse .badArg
    else if meshFits (readTiming p.body) = false then .refuse .badArg
    else if blendFits (readTiming p.body) = false then .refuse .badArg
    else .carryOut (beginGeneration p h s)
  | _ => .refuse .badArg

/-- SET_TIMING. -/
def execSetTiming (s : State) : Host.Outcome State Fault Refusal :=
  .next (whileReleased (takeVerb .setTiming ruleSetTiming) s)

/-- The pairs of a head after generation: MESH and BLEND hold the identity mesh and the unity blend in both banks, all current
(R22, R50, R77). -/
def generatedPairs (p : Packet) (head : Head) : PerTable Pair :=
  { head.pairs with
    mesh := freshPair (timingMesh head.timing p.body) (segmentCount head.timing .mesh)
    blend := freshPair (unityBlend head.timing) (segmentCount head.timing .blend) }

/-- The body of SET-TIMING's DONE (R198). -/
def timingBody (h : HeadId) (t : Timing) : List Byte :=
  [byteOf (headIndex h), byteOf (meshAcross t), byteOf (meshDown t), byteOf (blendAcross t), byteOf (blendDown t)]

/-- Generation completion, which falls only while the loader generates (R77). -/
def generationCompletion (s : State) : State :=
  match s.loader.state with
  | .generating p =>
    match packetHeads p with
    | [h] =>
      let head := s.heads.get h
      answerPacket p .done (timingBody h head.timing)
        { s with
          heads := s.heads.set h { head with pairs := generatedPairs p head }
          loader := { s.loader with state := .idle } }
    | _ => { s with loader := { s.loader with state := .idle } }
  | _ => s

/-- GENERATION_COMPLETION. -/
def execGenerationCompletion (s : State) : Host.Outcome State Fault Refusal :=
  .next (whileReleased generationCompletion s)

/-! ## START and STOP (R78, R79) -/

/-- START's own rule (R78). -/
def ruleStart (p : Packet) (s : State) : Verdict :=
  let mask := packetMask p
  if (packetHeads p).any fun h => (s.heads.get h).state != .parked then .refuse .badState
  else
    let started := s.heads.mapHeads fun h head =>
      if mask.get h then startHead (s.receiver.state == .locked) head else head
    doneWith p
      ((packetHeads p).flatMap fun h => [byteOf (headIndex h), byteOf (headStateCode (started.get h).state)])
      { s with heads := started }

/-- START. -/
def execStart (s : State) : Host.Outcome State Fault Refusal := .next (whileReleased (takeVerb .start ruleStart) s)

/-- The heads that a STOP parks at once, and those it sets stopping (R79). -/
def stopMasks (mask : HeadMask) (before after : PerHead Head) : HeadMask × HeadMask :=
  (.ofFn fun h => mask.get h && (before.get h).state != .parked && (after.get h).state == .parked,
   .ofFn fun h => mask.get h && !(before.get h).stopPending && (after.get h).stopPending)

/-- STOP's own rule (R79). Whether its DONE comes before the COMMITTED answers of the heads it parks is free (assumption
18). -/
def ruleStop (p : Packet) (s : State) : Verdict :=
  let mask := packetMask p
  let runs : PerHead HeadRun := .ofFn fun h => if mask.get h then takeStop (s.heads.get h) else beginRun (s.heads.get h)
  let s1 : State := { applyRuns runs s with turn := s.turn + 1 }
  let masks := stopMasks mask s.heads s1.heads
  let body := [maskByte masks.1, maskByte masks.2]
  .carryOut
    (if Config.stopAnswersFirst s.turn then answerSwaps allHeads runs (answerPacket p .done body s1)
     else answerPacket p .done body (answerSwaps allHeads runs s1))

/-- STOP. -/
def execStop (s : State) : Host.Outcome State Fault Refusal := .next (whileReleased (takeVerb .stop ruleStop) s)

end Sys2Proof.Machine
end

