-- ==== Sys2Proof/Machine/Link.lean ====
section
/-! DEFINITION. The events of the link receiver (chapters 1 and 6): carrier, markers, lines, packets and the absence expiry. -/

namespace Sys2Proof.Machine

/-! ## The thru port (R15) -/

/-- One item repeated by the thru port (R15). -/
def repeatThru (x : ThruItem) (s : State) : State :=
  { s with outputs := { s.outputs with thru := s.outputs.thru ++ [x] } }

/-! ## Carrier and absence (R1, R2, R5, R6, R16) -/

/-- A carrier up event, presented to the next unit as well (R2, R16); carrier events alternate, so there is none while the
carrier is up. -/
def carrierUp (s : State) : State :=
  if s.receiver.carrier then s
  else repeatThru (.carrier true)
    { s with receiver := { s.receiver with
        carrier := true
        state := if s.receiver.state = .noSignal then .search else s.receiver.state } }

/-- The receiver in COASTING, its absence timer started with the absence timeout (R2, R5). -/
def startCoasting (r : Receiver) : Receiver := { r with state := .coasting, absenceTimer := some r.timeout }

/-- The outputs when the source link breaks off: what had arrived of an item in reception has been repeated, and the carrier is
withdrawn from the next unit (R15, R16). -/
def withdrawLink (broken : Option ItemPart) (o : Outputs) : Outputs :=
  { o with thru := o.thru ++ broken.toList.map ThruItem.part ++ [.carrier false] }

/-- A carrier loss (R2, R15, R16): an item in reception is discarded by this unit, and what had arrived of it has been repeated;
there is no loss while the carrier is down. -/
def carrierLoss (broken : Option ItemPart) (s : State) : State :=
  if s.receiver.carrier then
    let r := { s.receiver with carrier := false }
    { s with
      receiver := match r.state with
        | .search => { r with state := .noSignal }
        | .locked => startCoasting r
        | .coasting => r
        | .noSignal => r
      outputs := withdrawLink broken s.outputs }
  else s

/-- The carrier the thru port presents to the next unit, read from what it has presented: the last carrier event, down before
the first (R16). -/
def presentedCarrier (thru : List ThruItem) : Bool :=
  thru.foldl (fun up x => match x with
    | .carrier c => c
    | .marker _ => up
    | .line _ => up
    | .packet _ => up
    | .part _ => up) false

/-- CARRIER_UP. -/
def execCarrierUp (s : State) : Host.Outcome State Fault Refusal := .next (whileReleased carrierUp s)

/-- CARRIER_LOSS. -/
def execCarrierLoss (s : State) (broken : Option ItemPart := none) : Host.Outcome State Fault Refusal :=
  .next (whileReleased (carrierLoss broken) s)

/-- The absence timer runs out in COASTING (R6): to SEARCH or NO-SIGNAL by the carrier, the ring and the line count emptied, and
the expiry handed to the heads. The owed lines of R72 are fill lines, so the ring they would read is not consulted. -/
def absenceExpiry (s : State) : State :=
  if s.receiver.state = .coasting ∧ s.receiver.absenceTimer.isSome then
    handToHeads (takeAbsence (viewOf s))
      { s with
        receiver := { s.receiver with
          state := if s.receiver.carrier then .search else .noSignal
          absenceTimer := none
          lines := 0 }
        ring := [] }
  else s

/-- ABSENCE_EXPIRY. -/
def execAbsenceExpiry (s : State) : Host.Outcome State Fault Refusal := .next (whileReleased absenceExpiry s)

/-! ## Markers (R3 to R5, R12, R15) -/

/-- A number bounded into a range (chapter 0, Arithmetic). -/
def clampNat (x lo hi : Nat) : Nat := max lo (min x hi)

/-- A frame start: each head finishes the ending frame from the ring and geometry as they stood and then takes the new frame
start, the receiver takes the marker's number and clamped geometry, and the ring is emptied (R3, R4, R12). In NO-SIGNAL no
marker can be received. -/
def frameStart (frame : Byte) (width height : Half) (s : State) : State :=
  if s.receiver.state = .noSignal then s
  else
    handToHeads (takeFrameStart (viewOf s) (s.receiver.state == .coasting) frame)
      (repeatThru (.marker (encodeMarker frame width height))
        { s with
          receiver := { s.receiver with
            state := .locked
            absenceTimer := none
            frame := frame
            width := clampNat width.toNat 64 4096
            height := clampNat height.toNat 64 2304
            lines := 0 }
          ring := [] })

/-- FRAME_START. -/
def execFrameStart (frame : Byte) (width height : Half) (s : State) : Host.Outcome State Fault Refusal :=
  .next (whileReleased (frameStart frame width height) s)

/-- A malformed marker: LOCKED goes to COASTING, SEARCH and COASTING ignore it; it is repeated as received (R5, R15). -/
def malformedMarker (bytes : List Byte) (s : State) : State :=
  match s.receiver.state with
  | .noSignal => s
  | .locked => repeatThru (.marker bytes) { s with receiver := startCoasting s.receiver }
  | .search => repeatThru (.marker bytes) s
  | .coasting => repeatThru (.marker bytes) s

/-- MALFORMED_MARKER. -/
def execMalformedMarker (bytes : List Byte) (s : State) : Host.Outcome State Fault Refusal :=
  .next (whileReleased (malformedMarker bytes) s)

/-! ## Active lines (R8 to R11) -/

/-- A received line shaped to `width` pixels: cut, or padded with its last pixel, or black where it has none (R9). -/
def shapeLine (width : Nat) (pixels : List Pixel) : List Pixel :=
  pixels.take width ++ List.replicate (width - pixels.length) (pixels.getLast?.getD blackPixel)

/-- The ring with a completed line placed in it, the oldest removed where it held 256 (R11). -/
def ringPush (ring : List RingLine) (l : RingLine) : List RingLine :=
  (if ring.length < 256 then ring else ring.drop (ring.length - 255)) ++ [l]

/-- An active line: repeated by the thru port; completed in LOCKED while the frame has lines left, and discarded otherwise
(R8, R10, R15). -/
def lineCompletion (pixels : List Pixel) (s : State) : State :=
  if s.receiver.state = .noSignal then s
  else
    let s := repeatThru (.line pixels) s
    if s.receiver.state = .locked ∧ s.receiver.lines < s.receiver.height then
      let n := s.receiver.lines
      let placed : State := { s with
        receiver := { s.receiver with lines := n + 1 }
        ring := ringPush s.ring { number := n, pixels := shapeLine s.receiver.width pixels } }
      handToHeads (takeLine (viewOf placed) n) placed
    else s

/-- LINE_COMPLETION. -/
def execLineCompletion (pixels : List Pixel) (s : State) : Host.Outcome State Fault Refusal :=
  .next (whileReleased (lineCompletion pixels) s)

/-! ## Packets (R14, R112, R115, R123) -/

/-- The packet filter: a packet is for this unit when its target is in the acceptance map and the confinement state is not
MUTE (R115). -/
def forThisUnit (s : State) (p : Packet) : Bool :=
  (acceptanceMap s.filter).contains p.header.target && confinement s != .mute

/-- A packet recognised in LOCKED: its check counted by the health monitor and, where it fails, reported; a good one filtered
into the intake queue (R112). -/
def checkPacket (bytes : List Byte) (s : State) : State :=
  if packetGood bytes then
    let counted : State := { s with health := countGood s.health }
    if forThisUnit counted (packetOf bytes) then queuePacket (packetOf bytes) counted else counted
  else
    { s with
      health := countFailed s.health
      fault := reportFault .check (headerComplete bytes) (rawHeader bytes) s.receiver.frame s.fault }

/-- A packet ends. In LOCKED it is recognised, forwarded (a good DISCOVER rewritten) and checked; in SEARCH and COASTING it is
repeated as received and nothing else (R14, R112, R118, R123). -/
def packetArrival (bytes : List Byte) (s : State) : State :=
  match s.receiver.state with
  | .noSignal => s
  | .search => repeatThru (.packet bytes) s
  | .coasting => repeatThru (.packet bytes) s
  | .locked => checkPacket bytes (repeatThru (.packet (forwardedPacket bytes)) s)

/-- PACKET_ARRIVAL. -/
def execPacketArrival (bytes : List Byte) (s : State) : Host.Outcome State Fault Refusal :=
  .next (whileReleased (packetArrival bytes) s)

end Sys2Proof.Machine
end

