-- ==== Sys2Proof/Machine/Returns.lean ====
section
/-! DEFINITION. The return merger (chapter 9): send start and completion, relay arrival, hold-back, and SET-RETURN. -/

namespace Sys2Proof.Machine

/-- The store the merger serves next: none where no answer waits (R172). -/
def nextServed (x : AnswerSide) : Option Served :=
  match x.own, x.relay with
  | [], [] => none
  | _ :: _, [] => some .own
  | [], _ :: _ => some .relay
  | _ :: _, _ :: _ =>
    match x.mode with
    | .relayFirst => some .relay
    | .ownFirst => some .own
    | .alternate => if x.lastServed = .own then some .relay else some .own

/-- The lane is free: no send in progress and the partner above does not hold it back (R171). -/
def laneFree (x : AnswerSide) : Bool := x.sending.isNone && !x.heldBack

/-- The unit holds back its thru return lane while the relay holding holds 2 answers (R170). -/
def holdsBackBelow (x : AnswerSide) : Bool := decide (2 ≤ x.relay.length)

/-- A send start: the oldest answer of the store that is served leaves it, and the last-served mark names that store (R172).
There is none while the lane is not free or nothing waits. -/
def beginSend (x : AnswerSide) : AnswerSide :=
  if laneFree x then
    match nextServed x with
    | some .own => { x with own := x.own.tail, sending := x.own.head?, lastServed := .own }
    | some .relay => { x with relay := x.relay.tail, sending := x.relay.head?, lastServed := .relay }
    | none => x
  else x

/-- SEND_START. -/
def execSendStart (s : State) : Host.Outcome State Fault Refusal :=
  .next (whileReleased (fun s => { s with answers := beginSend s.answers }) s)

/-- A send completion: the send ends, and the partner above may begin to hold the lane back at it, as an upper unit does at its relay
arrival (R170); a hold-back it asserted before stays until its release. The answer has reached the partner whole where it has
arrived there (R171). There is none without a send in progress. -/
def completeSend (asserted arrived : Bool) (s : State) : State :=
  match s.answers.sending with
  | some a =>
    { s with
      answers := { s.answers with sending := none, heldBack := s.answers.heldBack || asserted }
      outputs := if arrived then { s.outputs with returned := s.outputs.returned ++ [a] } else s.outputs }
  | none => s

/-- SEND_COMPLETION. -/
def execSendCompletion (asserted : Bool) (s : State) (arrived : Bool := true) : Host.Outcome State Fault Refusal :=
  .next (whileReleased (completeSend asserted arrived) s)

/-- A relay arrival: the answer joins the end of the relay holding, unjudged (R169). While the holding holds 2 the unit below
is held back and no answer can arrive (R170). -/
def relayArrive (a : Answer) (x : AnswerSide) : AnswerSide :=
  if x.relay.length < 2 then { x with relay := x.relay ++ [a] } else x

/-- RELAY_ARRIVAL. -/
def execRelayArrival (a : Answer) (s : State) : Host.Outcome State Fault Refusal :=
  .next (whileReleased (fun s => { s with answers := relayArrive a s.answers }) s)

/-- HOLD_BACK_RELEASE: the partner above holds the lane back no longer, by its release or its own power-on reset (R171, R173); or,
with the operand set, it begins to, on an idle lane or during a send, whose answer in flight is not affected (R171). The level is
the partner's, so it changes while this unit's reset input is asserted as well (assumption 9). -/
def execHoldBackRelease (s : State) (asserted : Bool := false) : Host.Outcome State Fault Refusal :=
  .next { s with answers := { s.answers with heldBack := asserted } }

/-- SET-RETURN (R174): a defined merge mode is set and answered as it now stands. -/
def ruleSetReturn (p : Packet) (s : State) : Verdict :=
  match mergeModeOf (natAt p.body 0) with
  | some m => doneWith p [byteOf (mergeModeCode m)] { s with answers := { s.answers with mode := m } }
  | none => .refuse .badArg

/-- SET_RETURN. -/
def execSetReturn (s : State) : Host.Outcome State Fault Refusal :=
  .next (whileReleased (takeVerb .setReturn ruleSetReturn) s)

end Sys2Proof.Machine
end

