-- ==== Sys2Proof/Machine/TableVerbs.lean ====
section
/-! DEFINITION. The table verbs and their completions (chapter 5): WRITE-TABLE, READ-TABLE, SYNC, COMMIT, CANCEL, write completion and
segment copy completion. -/

namespace Sys2Proof.Machine

/-! ## WRITE-TABLE (R86, R87) -/

/-- Whether a shadow is SYNCING or ARMED (R86, R92). -/
def shadowOccupied (s : State) (h : HeadId) (t : Table) : Bool :=
  shadowState s h t == .syncing || shadowState s h t == .armed

/-- WRITE-TABLE's own rule: its checks in the order of R86; the loader is then busy with the write (R87). -/
def ruleWriteTable (p : Packet) (s : State) : Verdict :=
  let form := natAt p.body 1
  let seg := natAt p.body 2
  match tableOf (natAt p.body 0) with
  | none => .refuse .badArg
  | some t =>
    if t = .blend ∧ 1 < form then .refuse .badArg
    else if (packetHeads p).any fun h => decide (segmentCount (s.heads.get h).timing t ≤ seg) then .refuse .badArg
    else if (packetHeads p).any fun h => natAt p.body 3 != entryCount (s.heads.get h).timing t seg then .refuse .badArg
    else if (packetHeads p).any fun h => shadowOccupied s h t then .refuse .busy
    else .carryOut { s with loader := { s.loader with state := .writing p } }

/-- WRITE_TABLE. -/
def execWriteTable (s : State) : Host.Outcome State Fault Refusal :=
  .next (whileReleased (takeVerb .writeTable ruleWriteTable) s)

/-- The segment that a WRITE-TABLE body writes (R196). -/
def writtenSegment (t : Table) (body : List Byte) : Segment :=
  readSegment t (natAt body 1 == 1) (natAt body 2) (natAt body 3) (body.drop 4)

/-- The body of WRITE-TABLE's DONE: for each masked head its shadow state and coverage count after the write (R87, R198). -/
def writeBody (p : Packet) (t : Table) (s : State) : List Byte :=
  [byteOf (tableCode t), byteAt p.body 2] ++
    (packetHeads p).flatMap fun h =>
      [byteOf (headIndex h), byteOf (shadowStateCode (shadowState s h t)),
        byteOf ((s.heads.get h).pairs.get t).coverage.length]

/-- The heads after a segment has been stored into a table's shadow on every masked head (R87). -/
def storeOnHeads (mask : HeadMask) (t : Table) (seg : Nat) (data : Segment) (hs : PerHead Head) : PerHead Head :=
  hs.mapHeads fun h head =>
    if mask.get h then { head with pairs := head.pairs.set t (storeSegment seg data (head.pairs.get t)) } else head

/-- The write completion, which falls only while the loader writes (R87). -/
def writeCompletion (s : State) : State :=
  match s.loader.state with
  | .writing p =>
    let idle : State := { s with loader := { s.loader with state := .idle } }
    match tableOf (natAt p.body 0) with
    | some t =>
      let stored : State := { idle with
        heads := storeOnHeads (packetMask p) t (natAt p.body 2) (writtenSegment t p.body) s.heads }
      answerPacket p .done (writeBody p t stored) stored
    | none => idle
  | _ => s

/-- WRITE_COMPLETION. -/
def execWriteCompletion (s : State) : Host.Outcome State Fault Refusal := .next (whileReleased writeCompletion s)

/-! ## READ-TABLE (R89, R90) -/

/-- The body of READ-TABLE's DONE (R90, R198). -/
def readBody (s : State) (h : HeadId) (t : Table) (shadow : Bool) (seg : Nat) : List Byte :=
  let pair := (s.heads.get h).pairs.get t
  let bank := if shadow then pair.shadow else pair.live
  let data := bank.getD seg (.values [])
  [byteOf (headIndex h), byteOf (tableCode t), boolByte shadow, byteOf seg, segmentForm data,
    boolByte (if shadow then pair.coverage.contains seg else true),
    if shadow then byteOf (shadowStateCode (shadowState s h t)) else 0xFF#8,
    byteOf (segmentEntries data)] ++ segmentBytes data

/-- READ-TABLE's own rule: its checks in the order of R89. -/
def ruleReadTable (p : Packet) (s : State) : Verdict :=
  match packetHeads p with
  | [h] =>
    match tableOf (natAt p.body 0) with
    | none => .refuse .badArg
    | some t =>
      if 1 < natAt p.body 1 then .refuse .badArg
      else if segmentCount (s.heads.get h).timing t ≤ natAt p.body 2 then .refuse .badArg
      else doneWith p (readBody s h t (natAt p.body 1 == 1) (natAt p.body 2)) s
  | _ => .refuse .badArg

/-- READ_TABLE. -/
def execReadTable (s : State) : Host.Outcome State Fault Refusal :=
  .next (whileReleased (takeVerb .readTable ruleReadTable) s)

/-! ## SYNC and the copy engine (R92 to R94) -/

/-- The pairs that a head list and a table set name, heads ascending and tables in table order (R92). -/
def namedPairs (hs : List HeadId) (ts : TableSet) : List (HeadId × Table) :=
  hs.flatMap fun h => (setTables ts).map fun t => (h, t)

/-- A list of pairs in an answer body: its count, then a head index and a table code for each (R198). -/
def pairList (ps : List (HeadId × Table)) : List Byte :=
  byteOf ps.length :: ps.flatMap fun q => [byteOf (headIndex q.1), byteOf (tableCode q.2)]

/-- SYNC's own rule (R92): a job for each STALE or PARTIAL pair, none for a READY one; an idle engine begins at this take
(R93). -/
def ruleSync (p : Packet) (s : State) : Verdict :=
  let ts := tableSetOf (byteAt p.body 0)
  let named := namedPairs (packetHeads p) ts
  if setTables ts = [] then .refuse .badArg
  else if named.any fun q => shadowOccupied s q.1 q.2 then .refuse .busy
  else
    let wanting := named.filter fun q => shadowState s q.1 q.2 != .ready
    let found := named.filter fun q => shadowState s q.1 q.2 == .ready
    let jobs := wanting.map fun q =>
      { head := q.1, table := q.2, tag := p.header.tag, wanted := answerWanted p.header : SyncJob }
    doneWith p (pairList wanting ++ pairList found)
      (resumeCopy { s with copy := { s.copy with jobs := s.copy.jobs ++ jobs } })

/-- SYNC. -/
def execSync (s : State) : Host.Outcome State Fault Refusal := .next (whileReleased (takeVerb .sync ruleSync) s)

/-- A segment copied whole from the live bank of a pair into its shadow; it joins the coverage (R93). -/
def copySegment (seg : Nat) (p : Pair) : Pair :=
  match p.live[seg]? with
  | some data => storeSegment seg data p
  | none => p

/-- A segment copy completion: the copy that fills the coverage ends the job with its DONE; the engine then begins the next
copy or is idle (R93, R94). There is none while the engine is idle. -/
def segmentCopyCompletion (s : State) : State :=
  match s.copy.inFlight with
  | some c =>
    let copied := changePair c.head c.table (copySegment c.segment) s
    let settled :=
      if coverageFull ((copied.heads.get c.head).pairs.get c.table) then
        (jobsOf s.copy.jobs c.head c.table).foldl (fun s j => answerJob j .done s)
          { copied with copy := { copied.copy with jobs := withoutJob s.copy.jobs c.head c.table } }
      else copied
    { settled with copy := { settled.copy with inFlight := nextCopy settled.heads settled.copy.jobs } }
  | none => s

/-- SEGMENT_COPY_COMPLETION. -/
def execSegmentCopyCompletion (s : State) : Host.Outcome State Fault Refusal :=
  .next (whileReleased segmentCopyCompletion s)

/-! ## COMMIT (R97, R98, R101) -/

/-- The armed commit that a COMMIT packet creates (R96, R98). -/
def commitOf (p : Packet) : ArmedCommit where
  tables := tableSetOf (byteAt p.body 0)
  frameTag := if byteAt p.body 1 != 0#8 then some (byteAt p.body 2) else none
  tag := p.header.tag
  wanted := answerWanted p.header

/-- The body of the ARMED answer: for each masked head its reach audit count, or FFFFh where MESH is not listed (R39, R98,
R198). -/
def armedBody (p : Packet) (s : State) : List Byte :=
  (packetHeads p).flatMap fun h =>
    let head := s.heads.get h
    byteOf (headIndex h) ::
      natBytes2 (if (commitOf p).tables.mesh then reachAudit head.timing head.pairs.mesh.shadow else 0xFFFF)

/-- The armed commit given to every masked head (R98). -/
def armHeads (p : Packet) (hs : PerHead Head) : PerHead Head :=
  hs.mapHeads fun h head => if (packetMask p).get h then { head with armed := some (commitOf p) } else head

/-- COMMIT's own rule: its checks in the order of R97; then the commit is armed, the ARMED answer generated, and an untagged
commit swapped at once on each masked head that is parked (R98, R101). -/
def ruleCommit (p : Packet) (s : State) : Verdict :=
  let c := commitOf p
  if setTables c.tables = [] then .refuse .badArg
  else if guardPasses s.fault = false then .refuse .held
  else if (packetHeads p).any fun h => (s.heads.get h).armed.isSome then .refuse .busy
  else if (namedPairs (packetHeads p) c.tables).any fun q => shadowState s q.1 q.2 != .ready then .refuse .notReady
  else
    .carryOut
      (runHeads
        (fun h head =>
          if (packetMask p).get h && head.state == .parked then swapWhen dueAtParking (beginRun head) else beginRun head)
        (answerPacket p .armed (armedBody p s) { s with heads := armHeads p s.heads }))

/-- COMMIT. -/
def execCommit (s : State) : Host.Outcome State Fault Refusal := .next (whileReleased (takeVerb .commit ruleCommit) s)

/-! ## CANCEL (R104, R105) -/

/-- Whether a head's armed commit shares a table with a table set (R104). -/
def sharesTable (head : Head) (ts : TableSet) : Bool := (setTables ts).any fun t => armedLists head t

/-- CANCEL's two steps for one head: its armed commit, then its sync jobs in table order (R104). -/
def cancelHead (ts : TableSet) (s : State) (h : HeadId) : State :=
  (setTables ts).foldl (removeJob h) (if sharesTable (s.heads.get h) ts then withdraw h s else s)

/-- CANCEL's own rule (R104, R105). -/
def ruleCancel (p : Packet) (s : State) : Verdict :=
  let ts := tableSetOf (byteAt p.body 0)
  let withdrawn : HeadMask := .ofFn fun h => (packetMask p).get h && sharesTable (s.heads.get h) ts
  let removed := (namedPairs (packetHeads p) ts).filter fun q => hasJob s.copy.jobs q.1 q.2
  if setTables ts = [] then .refuse .badArg
  else
    .carryOut
      (answerPacket p (if maskHeads withdrawn = [] ∧ removed = [] then .done else .cancelled)
        (maskByte withdrawn :: pairList removed)
        (resumeCopy ((packetHeads p).foldl (cancelHead ts) s)))

/-- CANCEL. -/
def execCancel (s : State) : Host.Outcome State Fault Refusal := .next (whileReleased (takeVerb .cancel ruleCancel) s)

end Sys2Proof.Machine
end

