-- ==== Sys2Proof/Machine/UnitVerbs.lean ====
section
/-! DEFINITION. The unit verbs of addressing, link, intake, guard, clearing and status (chapters 1, 6, 7, 8 and 10), and the take of a
packet whose verb is unknown. -/

namespace Sys2Proof.Machine

/-! ## DISCOVER (R119, R120) -/

/-- How many heads are in RUN (R120). -/
def headsInRun (hs : PerHead Head) : Nat := (allHeads.filter fun h => (hs.get h).state == .run).length

/-- DISCOVER's own rule: target 255 and a hop field 0..15 unless the overflow flag is set; the hop is taken, or the unit becomes
unnumbered (R119, R120). -/
def ruleDiscover (p : Packet) (s : State) : Verdict :=
  let overflow := byteAt p.body 1 != 0#8
  if p.header.target ≠ 0xFF#8 then .refuse .badArg
  else if overflow = false ∧ 15 < natAt p.body 0 then .refuse .badArg
  else
    let hop := if overflow then none else some (byteAt p.body 0)
    doneWith p [hopByte hop, byteOf (headsInRun s.heads)] { s with filter := { s.filter with hop := hop } }

/-- DISCOVER. -/
def execDiscover (s : State) : Host.Outcome State Fault Refusal :=
  .next (whileReleased (takeVerb .discover ruleDiscover) s)

/-! ## SET-ACCEPT (R121, R122) -/

/-- An address joined to a set of addresses kept in ascending order without repeats (R114). -/
def addressInsert (a : Byte) : List Byte → List Byte
  | [] => [a]
  | x :: xs => if a.toNat < x.toNat then a :: x :: xs else if a = x then x :: xs else x :: addressInsert a xs

/-- The addresses listed in a SET-ACCEPT body (R195). -/
def listedAddresses (body : List Byte) : List Byte := (body.drop 2).take (natAt body 1)

/-- SET-ACCEPT's own rule (R121, R122). -/
def ruleSetAccept (p : Packet) (s : State) : Verdict :=
  let action := natAt p.body 0
  let listed := listedAddresses p.body
  let added := listed.foldl (fun g a => addressInsert a g) s.filter.groups
  let groups := if action = 0 then added else s.filter.groups.filter fun g => !listed.contains g
  if 1 < action then .refuse .badArg
  else if listed.length < 1 ∨ 8 < listed.length then .refuse .badArg
  else if listed.any (fun a => decide (a.toNat < 16) || decide (254 < a.toNat)) then .refuse .badArg
  else if action = 0 ∧ 32 < added.length then .refuse .badArg
  else doneWith p ([hopByte s.filter.hop, byteOf groups.length] ++ groups) { s with filter := { s.filter with groups := groups } }

/-- SET_ACCEPT. -/
def execSetAccept (s : State) : Host.Outcome State Fault Refusal :=
  .next (whileReleased (takeVerb .setAccept ruleSetAccept) s)

/-! ## SET-LINK (R7), SET-INTAKE (R132) and SET-GUARD (R159) -/

/-- SET-LINK's own rule: the timeout is stored clamped into 8..250 and answered as stored (R7). -/
def ruleSetLink (p : Packet) (s : State) : Verdict :=
  let timeout := max 8 (min (natAt2 p.body 0) 250)
  doneWith p (natBytes2 timeout) { s with receiver := { s.receiver with timeout := timeout } }

/-- SET_LINK. -/
def execSetLink (s : State) : Host.Outcome State Fault Refusal := .next (whileReleased (takeVerb .setLink ruleSetLink) s)

/-- SET-INTAKE's own rule (R132). -/
def ruleSetIntake (p : Packet) (s : State) : Verdict :=
  match intakeModeOf (natAt p.body 0) with
  | some m => doneWith p [byteOf (intakeModeCode m)] { s with intake := { s.intake with mode := m } }
  | none => .refuse .badArg

/-- SET_INTAKE. -/
def execSetIntake (s : State) : Host.Outcome State Fault Refusal :=
  .next (whileReleased (takeVerb .setIntake ruleSetIntake) s)

/-- SET-GUARD's own rule (R159). -/
def ruleSetGuard (p : Packet) (s : State) : Verdict :=
  match guardModeOf (natAt p.body 0) with
  | some m =>
    doneWith p [byteOf (guardModeCode m), boolByte s.fault.entry.isSome] { s with fault := { s.fault with guard := m } }
  | none => .refuse .badArg

/-- SET_GUARD. -/
def execSetGuard (s : State) : Host.Outcome State Fault Refusal := .next (whileReleased (takeVerb .setGuard ruleSetGuard) s)

/-! ## CLEAR-FAULT (R160, R161) -/

/-- The fault block of a status body: eleven bytes, all 00h while the record is empty (R199). -/
def faultBlock (r : FaultRecord) : List Byte :=
  match r.entry with
  | some e =>
    [1#8, byteOf (faultKindCode e.kind), boolByte e.complete] ++ headerBytes e.header ++ [e.frame, byteOf e.overflow]
  | none => List.replicate 11 0#8

/-- What a clear mask clears: bit 0 the fault record, bit 1 the WARN latch, bit 2 the lost counts, bit 3 the reach-miss totals
and short-frame counts (R160, R195). -/
def clearItems (mask : Byte) (s : State) : State :=
  { s with
    fault := if mask.getLsbD 0 then { s.fault with entry := none } else s.fault
    health := if mask.getLsbD 1 then { s.health with warn := false } else s.health
    intake := if mask.getLsbD 2 then { s.intake with lost := 0 } else s.intake
    answers := if mask.getLsbD 2 then { s.answers with lost := 0 } else s.answers
    heads := if mask.getLsbD 3 then s.heads.mapHeads fun _ h => { h with missTotal := 0, shortFrames := 0 } else s.heads }

/-- CLEAR-FAULT's own rule: the answer reports what was held before the clearing, and is generated after it (R160, R161). -/
def ruleClearFault (p : Packet) (s : State) : Verdict :=
  let mask := byteAt p.body 0
  if 15 < mask.toNat then .refuse .badArg
  else
    doneWith p (faultBlock s.fault ++ [boolByte s.health.warn, byteOf s.intake.lost, byteOf s.answers.lost]) (clearItems mask s)

/-- CLEAR_FAULT. -/
def execClearFault (s : State) : Host.Outcome State Fault Refusal :=
  .next (whileReleased (takeVerb .clearFault ruleClearFault) s)

/-! ## READ-STATUS (R188 to R191, R199) -/

/-- The five bytes of the last refusal, all 00h while the record is empty (R199). -/
def refusalBlock : Option LastRefusal → List Byte
  | some r => [1#8, r.verb, r.tag, outcomeByte r.outcome, r.frame]
  | none => List.replicate 5 0#8

/-- The unit part of the status body: 39 bytes (R189, R199). -/
def statusUnit (s : State) : List Byte :=
  [byteOf (unitStateCode s.control.state), boolByte s.control.startUp, hopByte s.filter.hop] ++
  [byteOf (linkStateCode s.receiver.state), s.receiver.frame] ++ natBytes2 s.receiver.width ++ natBytes2 s.receiver.height ++
  natBytes2 s.health.errors ++ [byteOf (confinementCode (confinement s)), boolByte s.health.warn] ++
  faultBlock s.fault ++
  [byteOf (guardModeCode s.fault.guard)] ++
  [byteOf s.intake.queue.length, boolByte (decide (3 ≤ s.intake.queue.length)), byteOf (intakeModeCode s.intake.mode),
    byteOf s.intake.lost] ++
  [byteOf s.answers.own.length, byteOf s.answers.relay.length, byteOf s.answers.lost, byteOf (mergeModeCode s.answers.mode)] ++
  refusalBlock s.loader.lastRefusal ++
  [byteOf s.copy.jobs.length]

/-- The four bytes of a head's armed commit, all 00h where it has none (R190, R199). Where the commit has no frame tag the spec
gives its byte no value, and it is the free value `absent` (assumption 24). -/
def armedBlock (absent : ArmedCommit → Byte) : Option ArmedCommit → List Byte
  | some c => [1#8, tableSetByte c.tables, boolByte c.frameTag.isSome, c.frameTag.getD (absent c)]
  | none => List.replicate 4 0#8

/-- One head's block of the status body: 23 bytes (R190, R199). -/
def statusHead (s : State) (id : HeadId) : List Byte :=
  let h := s.heads.get id
  [byteOf (headStateCode h.state), boolByte h.stopPending] ++
  armedBlock (fun c => Config.absentFrameTag (headIndex id) c.tag s.turn) h.armed ++
  (allTables.flatMap fun t => [byteOf (shadowStateCode (shadowState s id t)), byteOf (h.pairs.get t).coverage.length]) ++
  natBytes2 h.missLatched ++ natBytes2 h.missTotal ++ natBytes2 h.shortFrames ++ [eventFlagsByte h]

/-- The status body: 131 bytes (R199). -/
def statusBody (s : State) : List Byte := statusUnit s ++ allHeads.flatMap (statusHead s)

/-- The start-up flag and the event flags of every head cleared (R191). -/
def clearFlags (s : State) : State :=
  { s with
    control := { s.control with startUp := false }
    heads := s.heads.mapHeads fun _ h => { h with parkedFlag := false, committedFlag := false, fillFlag := false } }

/-- READ-STATUS's own rule: where its answer is generated, the body is read and then the flags are cleared; otherwise nothing is
read and nothing is cleared (R188, R191). -/
def ruleReadStatus (p : Packet) (s : State) : Verdict :=
  if answerWanted p.header && answerAllowed (confinement s) (verbCode .readStatus) then
    doneWith p (statusBody s) (clearFlags s)
  else .carryOut s

/-- READ_STATUS. -/
def execReadStatus (s : State) : Host.Outcome State Fault Refusal :=
  .next (whileReleased (takeVerb .readStatus ruleReadStatus) s)

/-! ## Unknown verbs (R135) -/

/-- The take of a packet whose verb code is unknown: refused with BAD-FORM, and a FORM fault reported (R135). -/
def takeUnknown (s : State) : State :=
  match nextTake s with
  | some (p, s') => if verbOf p.header.verb = none then refuseForm p s' else s
  | none => s

/-- UNKNOWN_VERB. -/
def execUnknownVerb (s : State) : Host.Outcome State Fault Refusal := .next (whileReleased takeUnknown s)

end Sys2Proof.Machine
end

