-- ==== Sys2Proof/Machine/Control.lean ====
section
/-! DEFINITION. Unit control (chapter 10): power-on reset and its release, RESET-UNIT and the initialization completion. -/

namespace Sys2Proof.Machine

/-- Power-on reset asserted, at any moment: every operation in progress ends without its completion and every piece of state
takes its power-on value (R183), the carrier with it, which is withdrawn from the next unit (R16, assumption 23). What is not
the part's own state stays: the commands waiting, the model's record of the outputs, its counter, and the level at which the
partner above holds the return lane (assumptions 7, 8 and 9). -/
def powerOn (broken : Option ItemPart) (s : State) : State :=
  { State.reset with
    answers := { State.reset.answers with heldBack := s.answers.heldBack }
    outputs := if s.receiver.carrier then withdrawLink broken s.outputs else s.outputs
    turn := s.turn
    pending := s.pending }

/-- POWER_ON_RESET. -/
def execPowerOnReset (s : State) (broken : Option ItemPart := none) : Host.Outcome State Fault Refusal := .next (powerOn broken s)

/-- The reset input released: initialization begins, and the receiver takes a carrier up at once where carrier is present (R1,
R179). There is no release while the input is not asserted. -/
def releaseReset (carrierPresent : Bool) (s : State) : State :=
  if s.control.resetInput then
    let released : State := { s with control := { s.control with resetInput := false } }
    if carrierPresent then carrierUp released else released
  else s

/-- RESET_INPUT_RELEASE. -/
def execResetInputRelease (carrierPresent : Bool) (s : State) : Host.Outcome State Fault Refusal :=
  .next (releaseReset carrierPresent s)

/-! ## RESET-UNIT (R144, R177, R184, R185) -/

/-- RESET-UNIT's own rule, which has no refusal: what its take discards and sets; everything else is kept (R184, R185). -/
def ruleResetUnit (p : Packet) (s : State) : Verdict :=
  .carryOut
    { s with
      intake := { queue := [], mode := .overrun, lost := 0 }
      loader := { state := .resetting p, lastRefusal := none }
      heads := s.heads.mapHeads resetUnitHead
      copy := { jobs := [], inFlight := none }
      answers := { s.answers with own := [], mode := .relayFirst, lost := 0 }
      control := { s.control with state := .initializing } }

/-- RESET_UNIT. -/
def execResetUnit (s : State) : Host.Outcome State Fault Refusal :=
  .next (whileReleased (takeVerb .resetUnit ruleResetUnit) s)

/-! ## Initialization completion (R180, R181, R187) -/

/-- The take of the oldest queued packet, whatever its verb (R134). -/
def takeOldest (s : State) : State :=
  match nextTake s with
  | none => s
  | some (p, _) =>
    match verbOf p.header.verb with
    | none => takeUnknown s
    | some .discover => takeVerb .discover ruleDiscover s
    | some .setAccept => takeVerb .setAccept ruleSetAccept s
    | some .setLink => takeVerb .setLink ruleSetLink s
    | some .setIntake => takeVerb .setIntake ruleSetIntake s
    | some .setGuard => takeVerb .setGuard ruleSetGuard s
    | some .setReturn => takeVerb .setReturn ruleSetReturn s
    | some .clearFault => takeVerb .clearFault ruleClearFault s
    | some .readStatus => takeVerb .readStatus ruleReadStatus s
    | some .resetUnit => takeVerb .resetUnit ruleResetUnit s
    | some .setTiming => takeVerb .setTiming ruleSetTiming s
    | some .start => takeVerb .start ruleStart s
    | some .stop => takeVerb .stop ruleStop s
    | some .writeTable => takeVerb .writeTable ruleWriteTable s
    | some .readTable => takeVerb .readTable ruleReadTable s
    | some .sync => takeVerb .sync ruleSync s
    | some .commit => takeVerb .commit ruleCommit s
    | some .cancel => takeVerb .cancel ruleCancel s

/-- The body of RESET-UNIT's DONE: the state the reset kept (R187, R198). -/
def resetBody (s : State) : List Byte :=
  [hopByte s.filter.hop] ++ natBytes2 s.health.errors ++
    [byteOf (confinementCode (confinement s)), boolByte s.fault.entry.isSome, byteOf (guardModeCode s.fault.guard)]

/-- The first two steps of the initialization completion, with the banks it leaves and the loader idle: every bank of every
pair holds its default and is current, the unit is READY with its start-up flag set, and a RESET-UNIT that began the
initialization gets its DONE (R180, R181). -/
def finishInitialization (s : State) : State :=
  let ready : State := { s with
    heads := s.heads.mapHeads fun h head => { head with pairs := defaultPairs h }
    loader := { s.loader with state := .idle }
    control := { s.control with state := .ready, startUp := true } }
  match s.loader.state with
  | .resetting p => answerPacket p .done (resetBody s) ready
  | _ => ready

/-- The initialization completion, which falls only while INITIALIZING; its last step takes the oldest queued packet (R181,
assumption 4). -/
def initializationCompletion (s : State) : State :=
  if s.control.state = .initializing then takeOldest (finishInitialization s) else s

/-- INITIALIZATION_COMPLETION. -/
def execInitializationCompletion (s : State) : Host.Outcome State Fault Refusal :=
  .next (whileReleased initializationCompletion s)

end Sys2Proof.Machine
end

