-- ==== Sys2Proof/Machine/Dispatch.lean ====
section
/-! DEFINITION. One arm for each command: the row's meaning, called directly. -/

namespace Sys2Proof.Machine

/-- A command's effect on everything but the queue of waiting commands. -/
def exec (i : Instr) (s : State) : Host.Outcome State Fault Refusal :=
  match i with
  | .powerOnReset broken => Sys2Proof.Machine.execPowerOnReset s broken
  | .resetInputRelease c => Sys2Proof.Machine.execResetInputRelease c s
  | .initializationCompletion => Sys2Proof.Machine.execInitializationCompletion s
  | .carrierUp => Sys2Proof.Machine.execCarrierUp s
  | .carrierLoss broken => Sys2Proof.Machine.execCarrierLoss s broken
  | .frameStart f w h => Sys2Proof.Machine.execFrameStart f w h s
  | .malformedMarker bytes => Sys2Proof.Machine.execMalformedMarker bytes s
  | .lineCompletion pixels => Sys2Proof.Machine.execLineCompletion pixels s
  | .packetArrival bytes => Sys2Proof.Machine.execPacketArrival bytes s
  | .absenceExpiry => Sys2Proof.Machine.execAbsenceExpiry s
  | .fillTimerExpiry h => Sys2Proof.Machine.execFillTimerExpiry h s
  | .writeCompletion => Sys2Proof.Machine.execWriteCompletion s
  | .generationCompletion => Sys2Proof.Machine.execGenerationCompletion s
  | .segmentCopyCompletion => Sys2Proof.Machine.execSegmentCopyCompletion s
  | .sendStart => Sys2Proof.Machine.execSendStart s
  | .sendCompletion held arrived => Sys2Proof.Machine.execSendCompletion held s arrived
  | .relayArrival a => Sys2Proof.Machine.execRelayArrival a s
  | .holdBackRelease asserted => Sys2Proof.Machine.execHoldBackRelease s asserted
  | .discover => Sys2Proof.Machine.execDiscover s
  | .setAccept => Sys2Proof.Machine.execSetAccept s
  | .setLink => Sys2Proof.Machine.execSetLink s
  | .setIntake => Sys2Proof.Machine.execSetIntake s
  | .setGuard => Sys2Proof.Machine.execSetGuard s
  | .setReturn => Sys2Proof.Machine.execSetReturn s
  | .clearFault => Sys2Proof.Machine.execClearFault s
  | .readStatus => Sys2Proof.Machine.execReadStatus s
  | .resetUnit => Sys2Proof.Machine.execResetUnit s
  | .setTiming => Sys2Proof.Machine.execSetTiming s
  | .start => Sys2Proof.Machine.execStart s
  | .stop => Sys2Proof.Machine.execStop s
  | .writeTable => Sys2Proof.Machine.execWriteTable s
  | .readTable => Sys2Proof.Machine.execReadTable s
  | .sync => Sys2Proof.Machine.execSync s
  | .commit => Sys2Proof.Machine.execCommit s
  | .cancel => Sys2Proof.Machine.execCancel s
  | .unknownVerb => Sys2Proof.Machine.execUnknownVerb s

end Sys2Proof.Machine
end

