-- ==== Sys2Proof/Machine/Prompt.lean ====
section
/-! DEFINITION. What the part owes of itself: the send start and the take that follow at once on the events that prompt them (R134,
R172). -/

namespace Sys2Proof.Machine

/-- The command that takes a packet: its verb's, or the one for unknown verbs. -/
def takeCommand (p : Packet) : Instr :=
  match verbOf p.header.verb with
  | none => .unknownVerb
  | some .discover => .discover
  | some .setAccept => .setAccept
  | some .setLink => .setLink
  | some .setIntake => .setIntake
  | some .setGuard => .setGuard
  | some .setReturn => .setReturn
  | some .clearFault => .clearFault
  | some .readStatus => .readStatus
  | some .resetUnit => .resetUnit
  | some .setTiming => .setTiming
  | some .start => .start
  | some .stop => .stop
  | some .writeTable => .writeTable
  | some .readTable => .readTable
  | some .sync => .sync
  | some .commit => .commit
  | some .cancel => .cancel

/-- Whether a send start is due: the lane free and an answer waiting (R172). -/
def sendDue (s : State) : Bool := laneFree s.answers && (nextServed s.answers).isSome

/-- The event the part owes by its own rules and that nothing outside has to bring about: a send start where one is due, else
the take of the oldest queued packet where one is due (R134, R172); none while the reset input is asserted (assumption 3). -/
def owedEvent (s : State) : Option Instr :=
  if s.control.resetInput then none
  else if sendDue s then some .sendStart
  else (nextTake s).map fun t => takeCommand t.1

end Sys2Proof.Machine
end

