-- ==== Sys2Proof/Machine/Step.lean ====
section
/-! DEFINITION. One step: the command at the front of the queue; on an empty queue what the part owes of itself, or nothing. -/

namespace Sys2Proof.Machine

/-- One step of the machine. With commands waiting, the first of them is run. With none waiting, the part does what its own
rules have follow at once (a send start or a take, `owedEvent`), and idles where they ask for nothing (assumption 3). -/
def step (s : State) : Host.Outcome State Fault Refusal :=
  match s.pending with
  | c :: rest => exec c { s with pending := rest }
  | [] =>
    match owedEvent s with
    | some c => exec c s
    | none => .next s

/-- The state with the command that a word spells put at the front of the queue; unchanged where the word spells none
(assumption 17). -/
def State.withFetchWord (s : State) (nbits w : Nat) : State :=
  match decodeTableWord nbits w with
  | some c => { s with pending := c :: s.pending }
  | none => s

end Sys2Proof.Machine
end

