-- ==== Sys2Proof/Safety.lean ====
section
/-! DEFINITION. The terms in which statements about the unit are made: when a take is due, and the invariants the spec gives the
unit's state. -/

namespace Sys2Proof.Safety

open Sys2Proof.Machine

/-! ## Takes -/

/-- The loader is about to take packet `p` as the verb `v`, its form correct, with `rest` queued behind it (R134, R135). -/
def Takes (v : Verb) (p : Packet) (rest : List Packet) (s : State) : Prop :=
  s.control.resetInput = false ∧ s.loader.state = .idle ∧ s.control.state = .ready ∧ s.intake.queue = p :: rest ∧
    verbOf p.header.verb = some v ∧ formCorrect v p = true

/-- The state with the taken packet gone from the intake queue (R125). -/
def afterTake (rest : List Packet) (s : State) : State := { s with intake := { s.intake with queue := rest } }

/-! ## Invariants -/

/-- Every store keeps within its size and every saturating count within its top (R125, R129, R154, R167, R168, R170). -/
def StoresBounded (s : State) : Prop :=
  s.intake.queue.length ≤ 4 ∧ s.intake.lost ≤ 255 ∧ s.answers.own.length ≤ 4 ∧ s.answers.relay.length ≤ 2 ∧
    s.answers.lost ≤ 255 ∧ ∀ e, s.fault.entry = some e → e.overflow ≤ 255

/-- The link health monitor's counts: E is 0..256, the recovery run is below 64 and 0 unless the unit is MUTE, and the re-arm
flag is armed exactly while E is below 96 (R148, R149, R152, R153). -/
def HealthLegal (h : Health) : Prop :=
  h.errors ≤ 256 ∧ h.muteRun < 64 ∧ (h.errors < 256 → h.muteRun = 0) ∧ (h.rearm = true ↔ h.errors < 96)

/-- The receiver's state agrees with its timer and carrier, and its settings are in range (R1, R2, R3, R6, R7). -/
def ReceiverLegal (r : Receiver) : Prop :=
  (r.absenceTimer.isSome = true ↔ r.state = .coasting) ∧ (r.state = .noSignal → r.carrier = false) ∧
    (r.state = .search → r.carrier = true) ∧ 8 ≤ r.timeout ∧ r.timeout ≤ 250 ∧
    64 ≤ r.width ∧ r.width ≤ 4096 ∧ 64 ≤ r.height ∧ r.height ≤ 2304 ∧ r.lines ≤ r.height

/-- The ring holds the last completed lines of the current frame, at most 256, numbered without gaps up to the last completed
one, each of the frame's width; it is empty in NO-SIGNAL and SEARCH (R11, R12). -/
def RingHoldsFrame (s : State) : Prop :=
  s.ring.map RingLine.number = List.range' (s.receiver.lines - min 256 s.receiver.lines) (min 256 s.receiver.lines) ∧
    (∀ l ∈ s.ring, l.pixels.length = s.receiver.width) ∧
    (s.receiver.state = .noSignal ∨ s.receiver.state = .search → s.ring = [])

/-- The acceptance map: the unit address is 0..15, and the group addresses are at most 32, each 16..254, in ascending order
(R114, R117). -/
def AddressesLegal (f : PacketFilter) : Prop :=
  (∀ h, f.hop = some h → h.toNat ≤ 15) ∧ f.groups.length ≤ 32 ∧ (∀ g ∈ f.groups, 16 ≤ g.toNat ∧ g.toNat ≤ 254) ∧
    f.groups.Pairwise fun a b => a.toNat < b.toNat

/-- A head's state agrees with its timer, its flag and its schedule, and its timing and counts are in range (R18, R47, R60, R63,
R66, R67, R73, R79, R80). -/
def HeadLegal (h : Head) : Prop :=
  timingInRange h.timing = true ∧ meshFits h.timing = true ∧ blendFits h.timing = true ∧
    (h.fillTimer.isSome = true ↔ h.state = .fill) ∧ h.nextLine ≤ h.timing.height ∧
    (h.stopPending = true → h.state = .run ∧ h.nextLine < h.timing.height) ∧
    h.missTotal ≤ 65535 ∧ h.shortFrames ≤ 65535

/-- The reach-miss line counts of a head are at most its H_out, and the running one of a head in RUN counts none but the lines it
has released (R35, R36). -/
def MissCountsBounded (h : Head) : Prop :=
  h.missRunning ≤ h.timing.height ∧ h.missLatched ≤ h.timing.height ∧ (h.state = .run → h.missRunning ≤ h.nextLine)

/-- A running head follows frames: a head is in RUN only while the receiver is LOCKED or COASTING (R67). -/
def RunFollowsLink (s : State) : Prop :=
  ∀ h, (s.heads.get h).state = .run → s.receiver.state = .locked ∨ s.receiver.state = .coasting

/-- While the unit is INITIALIZING every head is parked with no armed commit and there is no sync job (R180, R182). -/
def QuietWhileInitializing (s : State) : Prop :=
  s.control.state = .initializing →
    (∀ h, (s.heads.get h).state = .parked ∧ (s.heads.get h).armed = none) ∧ s.copy.jobs = []

/-- An ARMED shadow has all of its segments current and no sync job, and no two sync jobs are for one pair (R85, R91). -/
def CommitsSound (s : State) : Prop :=
  (∀ h t, armedLists (s.heads.get h) t = true →
      coverageFull ((s.heads.get h).pairs.get t) = true ∧ hasJob s.copy.jobs h t = false) ∧
    s.copy.jobs.Pairwise fun a b => ¬(a.head = b.head ∧ a.table = b.table)

/-- The lists and states the copy engine works on agree: it is idle exactly while the list is empty, its copy is for the oldest
job and its lowest segment that is not current, and every job's shadow lacks a segment (R93, R94). -/
def CopySound (s : State) : Prop :=
  (s.copy.jobs = [] → s.copy.inFlight = none) ∧
    (∀ j rest, s.copy.jobs = j :: rest → ∃ seg,
      s.copy.inFlight = some { head := j.head, table := j.table, segment := seg } ∧
      lowestMissing ((s.heads.get j.head).pairs.get j.table) = some seg) ∧
    ∀ j ∈ s.copy.jobs, coverageFull ((s.heads.get j.head).pairs.get j.table) = false

/-- The verb in execution is one that its take accepted, and nothing has come up since that its completion would meet: a write fits
the shadows it is for, which have no job; a generation is of one head, which has no MESH or BLEND job; and the heads of a unit
that is INITIALIZING have their default timings (R86, R88, R77, R133, R180). -/
def LoaderSound (s : State) : Prop :=
  (∀ p, s.loader.state = .writing p → ∃ t, tableOf (natAt p.body 0) = some t ∧ ∀ h ∈ packetHeads p,
    natAt p.body 2 < segmentCount (s.heads.get h).timing t ∧
      natAt p.body 3 = entryCount (s.heads.get h).timing t (natAt p.body 2) ∧ hasJob s.copy.jobs h t = false) ∧
    (∀ p, s.loader.state = .generating p → ∃ h, packetHeads p = [h] ∧ hasJob s.copy.jobs h .mesh = false ∧
      hasJob s.copy.jobs h .blend = false) ∧
    (∀ p, s.loader.state = .resetting p → s.control.state = .initializing) ∧
    (s.control.state = .initializing → ∀ h, (s.heads.get h).timing = defaultTiming h)

/-- Segment `i` of a table has the kind and the entry count that a timing gives it, and the lifts of a blend segment are present on
all of its points or on none (R19, R43, R45, R49, R56, R82). -/
def segmentShaped (t : Timing) (table : Table) (i : Nat) : Segment → Prop
  | .header _ => table = .mesh ∧ i = 0
  | .points row => table = .mesh ∧ i ≠ 0 ∧ row.length = entryCount t .mesh i
  | .blends row =>
    table = .blend ∧ row.length = entryCount t .blend i ∧ ((∀ q ∈ row, q.lift.isSome = true) ∨ ∀ q ∈ row, q.lift = none)
  | .values entries => (table = .decode ∨ table = .encode) ∧ entries.length = entryCount t table i
  | .trim _ => table = .trim

/-- A bank has the shape of its table under a timing (R82, R83). -/
def bankShaped (t : Timing) (table : Table) (bank : Bank) : Prop :=
  bank.length = segmentCount t table ∧ ∀ i x, bank[i]? = some x → segmentShaped t table i x

/-- The banks of a pair are being written: by the initialization of a RESET-UNIT, or by generation (R77, R180). -/
def beingRewritten (s : State) (h : HeadId) (table : Table) : Prop :=
  (∃ p, s.loader.state = .resetting p) ∨
    ∃ p, s.loader.state = .generating p ∧ h ∈ packetHeads p ∧ (table = .mesh ∨ table = .blend)

/-- Both banks of every pair have the shape of the head's timing, and its coverage is a set of segments of that shape, but for the
pairs being rewritten (R83, R84). -/
def BanksShaped (s : State) : Prop :=
  ∀ h table, ¬beingRewritten s h table →
    let timing := (s.heads.get h).timing
    let pair := (s.heads.get h).pairs.get table
    bankShaped timing table pair.live ∧ bankShaped timing table pair.shadow ∧
      pair.coverage.Pairwise (· < ·) ∧ ∀ seg ∈ pair.coverage, seg < segmentCount timing table

/-- The thru port presents the carrier of the source link (R16). -/
def CarrierPresented (s : State) : Prop := presentedCarrier s.outputs.thru = s.receiver.carrier

/-- The values a segment of a table may hold (R20, R21, R43, R45, R48, R56). -/
def segmentLegal (t : Table) (x : Segment) : Prop :=
  match t, x with
  | .mesh, .header h => h.ox ≤ 4095 ∧ h.oy ≤ 2303 ∧ 1 ≤ h.wx ∧ h.ox + h.wx ≤ 4096 ∧ 1 ≤ h.wy ∧ h.oy + h.wy ≤ 2304
  | .mesh, .points row =>
    ∀ p ∈ row, -131072 ≤ p.sx ∧ p.sx ≤ 131071 ∧ -131072 ≤ p.sy ∧ p.sy ≤ 131071
  | .blend, .blends row => ∀ q ∈ row, q.weight ≤ 4096 ∧ ∀ l, q.lift = some l → l ≤ 4095
  | .decode, .values entries => ∀ e ∈ entries, e ≤ 65535
  | .encode, .values entries => ∀ e ∈ entries, e ≤ 1023
  | .trim, .trim x =>
    (x.gain.r ≤ 8191 ∧ x.gain.g ≤ 8191 ∧ x.gain.b ≤ 8191) ∧
      (-4096 ≤ x.offset.r ∧ x.offset.r ≤ 4095 ∧ -4096 ≤ x.offset.g ∧ x.offset.g ≤ 4095 ∧ -4096 ≤ x.offset.b ∧
        x.offset.b ≤ 4095) ∧
      (x.fill.r ≤ 1023 ∧ x.fill.g ≤ 1023 ∧ x.fill.b ≤ 1023)
  | _, _ => False

/-- Every entry of every bank of every pair is in its table's range. -/
def TablesLegal (s : State) : Prop :=
  ∀ h t, (∀ x ∈ ((s.heads.get h).pairs.get t).live, segmentLegal t x) ∧
    (∀ x ∈ ((s.heads.get h).pairs.get t).shadow, segmentLegal t x)

/-- Every code that has left a head port lies in 0..1023 (R56). -/
def CodesLegal (s : State) : Prop :=
  ∀ h, ∀ line, PortItem.line line ∈ s.outputs.ports.get h → ∀ p ∈ line, p.r ≤ 1023 ∧ p.g ≤ 1023 ∧ p.b ≤ 1023

end Sys2Proof.Safety
end

