-- ==== Sys2Proof/Certificates/Slice0/Obligations.lean ====
section
/-! DEFINITION. The statements for the provers: what each command does, what the shared operations compute, and the invariants every
step keeps. Assumption numbers are those of notes/assumptions. -/

open Sys2Proof Sys2Proof.Machine Sys2Proof.Safety

/-! ## The machine -/

/-- Step runs the command at the front of the queue, on the state with the queue's rest. -/
def Obligations.StepRunsFrontCommand : Prop :=
  ∀ (c : Instr) (rest : List Instr) (s : State), step { s with pending := c :: rest } = exec c { s with pending := rest }

/-- Every command answers a next state in every state, and leaves the waiting commands as they are: no command of the table
ends in a fault or a refusal (an event that is not due changes nothing, assumption 2). -/
def Obligations.EveryCommandCompletesAndKeepsQueue : Prop :=
  ∀ (c : Instr) (s : State), ∃ t, exec c s = .next t ∧ t.pending = s.pending

/-- The model's choice (assumption 3). On an empty queue: a send start where the lane is free and an answer waits; else the
take of the oldest queued packet where the loader is idle and the unit READY; else, or while the reset input is asserted,
nothing. The lane is free with no send in progress and no hold-back by the partner (R171). -/
def Obligations.EmptyQueueStepDoesWhatIsOwed : Prop :=
  ∀ s : State, s.pending = [] →
    (s.control.resetInput = true → step s = .next s) ∧
    (s.control.resetInput = false →
      let free := s.answers.sending = none ∧ s.answers.heldBack = false
      let waits := s.answers.own ≠ [] ∨ s.answers.relay ≠ []
      (free → waits → step s = exec .sendStart s) ∧
      (¬(free ∧ waits) →
        (∀ p rest, s.loader.state = .idle → s.control.state = .ready → s.intake.queue = p :: rest →
          step s = exec (takeCommand p) s) ∧
        (s.loader.state ≠ .idle ∨ s.control.state ≠ .ready ∨ s.intake.queue = [] → step s = .next s)))

/-- The model's reading (assumption 5): while the reset input is asserted, only its release, another power-on reset and the partner
above's release or assertion of its hold-back (assumption 9) have an effect. The release begins initialization, and the receiver takes a
carrier up at once where carrier is present, which the thru port presents (R1, R16, R179). -/
def Obligations.ResetInputGatesEvents : Prop :=
  (∀ (c : Instr) (s : State), s.control.resetInput = true → (∀ b, c ≠ .powerOnReset b) → (∀ b, c ≠ .resetInputRelease b) →
     (∀ b, c ≠ .holdBackRelease b) → exec c s = .next s) ∧
  (∀ s : State, s.control.resetInput = true →
     exec (.resetInputRelease false) s = .next { s with control := { s.control with resetInput := false } } ∧
     (s.receiver.carrier = false → s.receiver.state = .noSignal →
       exec (.resetInputRelease true) s =
         .next { s with control := { s.control with resetInput := false }
                        receiver := { s.receiver with carrier := true, state := .search }
                        outputs := { s.outputs with thru := s.outputs.thru ++ [.carrier true] } }))

/-! ## Power-on reset, initialization and RESET-UNIT -/

/-- Power-on reset, from any state: every block at its power-on value (R183). The commands waiting, the record of the outputs,
the counter of handed events and the level of the hold-back from above are the model's or the outside's and stay
(assumptions 7, 8, 9). Where the carrier was up, the thru port has repeated what had arrived of a broken-off item and withdraws
the carrier (R15, R16, assumption 23). -/
def Obligations.PowerOnResetSetsEveryBlock : Prop :=
  (∀ broken, exec (.powerOnReset broken) State.reset = .next State.reset) ∧
  ∀ (s : State) (broken : Option ItemPart), ∃ t, exec (.powerOnReset broken) s = .next t ∧
    t.receiver = { state := .noSignal, carrier := false, absenceTimer := none, timeout := 100, frame := 0#8, width := 3840,
                   height := 2160, lines := 0 } ∧
    t.ring = [] ∧ t.filter.hop = none ∧ acceptanceMap t.filter = [0xFF#8] ∧
    t.health = { errors := 0, muteRun := 0, warn := false, rearm := true } ∧ confinement t = .active ∧
    t.fault = { entry := none, guard := .strict } ∧
    t.intake = { queue := [], mode := .overrun, lost := 0 } ∧
    t.loader = { state := .startingUp, lastRefusal := none } ∧
    t.copy = { jobs := [], inFlight := none } ∧
    t.answers = { own := [], relay := [], sending := none, heldBack := s.answers.heldBack, mode := .relayFirst, lost := 0,
                  lastServed := .own } ∧
    t.control = { state := .initializing, startUp := false, resetInput := true } ∧
    (∀ h, (t.heads.get h).timing = defaultTiming h ∧ (t.heads.get h).state = .parked ∧
      (t.heads.get h).stopPending = false ∧ (t.heads.get h).nextLine = 0 ∧ (t.heads.get h).fillTimer = none ∧
      (t.heads.get h).armed = none ∧ (t.heads.get h).missRunning = 0 ∧ (t.heads.get h).missLatched = 0 ∧
      (t.heads.get h).missTotal = 0 ∧ (t.heads.get h).shortFrames = 0 ∧ (t.heads.get h).parkedFlag = false ∧
      (t.heads.get h).committedFlag = false ∧ (t.heads.get h).fillFlag = false) ∧
    (s.receiver.carrier = false → t.outputs = s.outputs) ∧
    (s.receiver.carrier = true →
      t.outputs = { s.outputs with thru := s.outputs.thru ++ broken.toList.map .part ++ [.carrier false] }) ∧
    t.turn = s.turn ∧ t.pending = s.pending

/-- The initialization completion. Both banks of every pair hold their defaults with full coverage, the unit is READY with its
start-up flag set and the loader idle; a RESET-UNIT that began it then gets its DONE, whose body is the state the reset kept. That
is all with no packet queued; with packets queued the oldest one is then taken from there, as its verb's command takes it (R134,
R180, R181, R187). The defaults: the timings and windows of R61, the identity mesh (R22), the unity blend (R50), the straight decode
and encode (R44, R57), and the trim of gains 4096, offsets 0 and fill codes 0 (R45). -/
def Obligations.InitializationCompletionLeavesDefaults : Prop :=
  (∀ s : State, s.control.resetInput = false → s.control.state = .initializing →
     let ready : State := { s with
       heads := .ofFn fun h => { s.heads.get h with
         pairs := .ofFn fun t => { live := defaultBank h t, shadow := defaultBank h t,
                                   coverage := List.range (segmentCount (defaultTiming h) t) } }
       loader := { s.loader with state := .idle }
       control := { s.control with state := .ready, startUp := true } }
     let kept : List Byte :=
       [s.filter.hop.getD 0xFF#8, byteOf (s.health.errors / 256), byteOf s.health.errors,
         (match confinement s with | .active => 0#8 | .reduced => 1#8 | .mute => 2#8),
         if s.fault.entry = none then 0#8 else 1#8, (match s.fault.guard with | .strict => 0#8 | .lenient => 1#8)]
     let finished (done : State) : Prop :=
       (s.intake.queue = [] → exec .initializationCompletion s = .next done) ∧
       ∀ p rest, s.intake.queue = p :: rest → exec .initializationCompletion s = exec (takeCommand p) done
     ((∀ q, s.loader.state ≠ .resetting q) → finished ready) ∧
     (∀ q, s.loader.state = .resetting q → finished (answerPacket q .done kept ready))) ∧
  (∀ h : HeadId,
     defaultTiming h = { width := 1920, height := 1080, k := 6, b := 5, delay := if h = .h2 ∨ h = .h3 then 1080 else 0
                         lineStep := 4096, fillPeriod := 16667 } ∧
     defaultBank h .mesh =
       identityMesh (defaultTiming h) (if h = .h1 ∨ h = .h3 then 1920 else 0) (if h = .h2 ∨ h = .h3 then 1080 else 0) 1920 1080 ∧
     defaultBank h .blend = unityBlend (defaultTiming h) ∧ defaultBank h .decode = defaultDecode ∧
     defaultBank h .encode = defaultEncode ∧ defaultBank h .trim = defaultTrim) ∧
  (∀ e, e ≤ 1023 → bankValue defaultDecode e = e * 65535 / 1023) ∧
  (∀ j, j ≤ 4095 → bankValue defaultEncode j = (j * 1023 + 2047) / 4095) ∧
  defaultTrim = [.trim { gain := ⟨4096, 4096, 4096⟩, offset := ⟨0, 0, 0⟩, fill := ⟨0, 0, 0⟩ }]

/-- The take of RESET-UNIT: what it discards, sets and parks, and that the rest is kept (R144, R177, R184, R185). That every bank
and coverage stays as it was until the initialization completion is the model's choice (assumption 10). -/
def Obligations.ResetUnitKeepsLinkAndParksHeads : Prop :=
  ∀ (s : State) (p : Packet) (rest : List Packet), Takes .resetUnit p rest s →
    exec .resetUnit s = .next { s with
      intake := { queue := [], mode := .overrun, lost := 0 }
      loader := { state := .resetting p, lastRefusal := none }
      heads := .ofFn fun h =>
        { timing := defaultTiming h, state := .parked, stopPending := false, nextLine := 0, fillTimer := none, armed := none,
          missRunning := 0, missLatched := 0, missTotal := 0, shortFrames := 0, parkedFlag := false, committedFlag := false,
          fillFlag := false, pairs := (s.heads.get h).pairs }
      copy := { jobs := [], inFlight := none }
      answers := { s.answers with own := [], mode := .relayFirst, lost := 0 }
      control := { s.control with state := .initializing } }

/-! ## The link receiver -/

/-- Carrier up and carrier loss (R2), each presented to the next unit, a loss after what had arrived of an item that it breaks off
(R15, R16); nothing else changes. A malformed marker: LOCKED goes to COASTING and starts the timer with the timeout; SEARCH and
COASTING ignore it; it is repeated as received (R5, R15). -/
def Obligations.CarrierAndMalformedMarkersMoveReceiver : Prop :=
  (∀ (s : State) (broken : Option ItemPart), s.control.resetInput = false →
     let lost := { s.outputs with thru := s.outputs.thru ++ broken.toList.map .part ++ [.carrier false] }
     (s.receiver.carrier = false →
       exec .carrierUp s = .next { s with
         receiver := { s.receiver with
           carrier := true, state := if s.receiver.state = .noSignal then .search else s.receiver.state }
         outputs := { s.outputs with thru := s.outputs.thru ++ [.carrier true] } }) ∧
     (s.receiver.carrier = true →
       (s.receiver.state = .search →
         exec (.carrierLoss broken) s = .next { s with
           receiver := { s.receiver with carrier := false, state := .noSignal }, outputs := lost }) ∧
       (s.receiver.state = .locked →
         exec (.carrierLoss broken) s = .next { s with
           receiver := { s.receiver with carrier := false, state := .coasting, absenceTimer := some s.receiver.timeout }
           outputs := lost }) ∧
       (s.receiver.state = .coasting →
         exec (.carrierLoss broken) s =
           .next { s with receiver := { s.receiver with carrier := false }, outputs := lost }))) ∧
  (∀ (s : State) (bytes : List Byte), s.control.resetInput = false →
     let outputs := { s.outputs with thru := s.outputs.thru ++ [.marker bytes] }
     (s.receiver.state = .locked →
       exec (.malformedMarker bytes) s = .next { s with
         receiver := { s.receiver with state := .coasting, absenceTimer := some s.receiver.timeout }, outputs := outputs }) ∧
     (s.receiver.state = .search ∨ s.receiver.state = .coasting →
       exec (.malformedMarker bytes) s = .next { s with outputs := outputs }))

/-- A frame start in SEARCH, LOCKED or COASTING: the receiver takes the marker's number and clamped geometry and is LOCKED with
its timer stopped, the ring is empty, the marker is repeated unclamped, and each head takes the frame start from the ring and
geometry as they stood, with the regain mark where the receiver was COASTING (R3, R4, R12, R15, R17). Nothing else changes;
the answers change only where a head swaps. -/
def Obligations.FrameStartLocksAndHandsToHeads : Prop :=
  ∀ (s : State) (f : Byte) (w h : Half), s.control.resetInput = false → s.receiver.state ≠ .noSignal →
    let view : View := { width := s.receiver.width, height := s.receiver.height, ring := s.ring }
    let regain := s.receiver.state == .coasting
    ∃ t, exec (.frameStart f w h) s = .next t ∧
      t.receiver = { s.receiver with
        state := .locked, absenceTimer := none, frame := f, width := max 64 (min w.toNat 4096),
        height := max 64 (min h.toNat 2304), lines := 0 } ∧
      t.ring = [] ∧
      (∀ k, t.heads.get k = (takeFrameStart view regain f (s.heads.get k)).head) ∧
      (∀ k, t.outputs.ports.get k = s.outputs.ports.get k ++ (takeFrameStart view regain f (s.heads.get k)).emitted) ∧
      t.outputs.thru = s.outputs.thru ++ [.marker (encodeMarker f w h)] ∧ t.outputs.returned = s.outputs.returned ∧
      t.filter = s.filter ∧ t.health = s.health ∧ t.fault = s.fault ∧ t.intake = s.intake ∧ t.loader = s.loader ∧
      t.copy = s.copy ∧ t.control = s.control ∧ t.turn = s.turn + 1 ∧ t.pending = s.pending ∧
      ((∀ k, (takeFrameStart view regain f (s.heads.get k)).swapped = none) → t.answers = s.answers)

/-- The absence timer running out: SEARCH or NO-SIGNAL by the carrier, ring and line count emptied, number and geometry kept,
and the expiry handed to every head (R6, R17). -/
def Obligations.AbsenceExpiryEndsLock : Prop :=
  ∀ s : State, s.control.resetInput = false → s.receiver.state = .coasting → s.receiver.absenceTimer.isSome = true →
    let view : View := { width := s.receiver.width, height := s.receiver.height, ring := s.ring }
    ∃ t, exec .absenceExpiry s = .next t ∧
      t.receiver = { s.receiver with
        state := if s.receiver.carrier = true then .search else .noSignal, absenceTimer := none, lines := 0 } ∧
      t.ring = [] ∧
      (∀ k, t.heads.get k = (takeAbsence view (s.heads.get k)).head) ∧
      (∀ k, t.outputs.ports.get k = s.outputs.ports.get k ++ (takeAbsence view (s.heads.get k)).emitted) ∧
      t.outputs.thru = s.outputs.thru ∧ t.outputs.returned = s.outputs.returned ∧
      t.filter = s.filter ∧ t.health = s.health ∧ t.fault = s.fault ∧ t.intake = s.intake ∧ t.loader = s.loader ∧
      t.copy = s.copy ∧ t.control = s.control ∧ t.turn = s.turn + 1 ∧ t.pending = s.pending ∧
      ((∀ k, (takeAbsence view (s.heads.get k)).swapped = none) → t.answers = s.answers)

/-- An active line in LOCKED below H_in: shaped to W_in pixels, counted, placed in the ring, and handed to every head after it is
in the ring; the ring then holds the last 256 lines at most. A line past H_in, or in SEARCH or COASTING, is discarded and only
repeated. A shaped line has exactly W_in pixels: pixel u is the received one where there is one, else the last received one,
else code 0 on all three channels (R8 to R11, R15). -/
def Obligations.ActiveLineEntersRingThenHeads : Prop :=
  (∀ (s : State) (pixels : List Pixel), s.control.resetInput = false → s.receiver.state = .locked →
     s.receiver.lines < s.receiver.height →
     let n := s.receiver.lines
     let line : RingLine := { number := n, pixels := shapeLine s.receiver.width pixels }
     ∃ t, exec (.lineCompletion pixels) s = .next t ∧
       t.receiver = { s.receiver with lines := n + 1 } ∧
       t.ring = (s.ring ++ [line]).drop (s.ring.length - 255) ∧
       (∀ k, t.heads.get k =
         (takeLine { width := s.receiver.width, height := s.receiver.height, ring := t.ring } n (s.heads.get k)).head) ∧
       (∀ k, t.outputs.ports.get k = s.outputs.ports.get k ++
         (takeLine { width := s.receiver.width, height := s.receiver.height, ring := t.ring } n (s.heads.get k)).emitted) ∧
       t.outputs.thru = s.outputs.thru ++ [.line pixels] ∧ t.outputs.returned = s.outputs.returned ∧
       t.filter = s.filter ∧ t.health = s.health ∧ t.fault = s.fault ∧ t.intake = s.intake ∧ t.loader = s.loader ∧
       t.copy = s.copy ∧ t.control = s.control ∧ t.turn = s.turn + 1 ∧ t.pending = s.pending ∧
       ((∀ k, (takeLine { width := s.receiver.width, height := s.receiver.height, ring := t.ring } n
         (s.heads.get k)).swapped = none) → t.answers = s.answers)) ∧
  (∀ (s : State) (pixels : List Pixel), s.control.resetInput = false →
     (s.receiver.state = .locked ∧ s.receiver.height ≤ s.receiver.lines) ∨ s.receiver.state = .search ∨
       s.receiver.state = .coasting →
     exec (.lineCompletion pixels) s =
       .next { s with outputs := { s.outputs with thru := s.outputs.thru ++ [.line pixels] } }) ∧
  (∀ (width : Nat) (pixels : List Pixel),
     (shapeLine width pixels).length = width ∧
     (∀ u, u < width → u < pixels.length → (shapeLine width pixels)[u]? = pixels[u]?) ∧
     (∀ u, u < width → pixels.length ≤ u → pixels ≠ [] → (shapeLine width pixels)[u]? = pixels.getLast?) ∧
     (pixels = [] → shapeLine width pixels = List.replicate width ⟨0, 0, 0⟩))

/-! ## Packets and link health -/

/-- A packet in LOCKED whose check fails: E, the WARN latch and the recovery run follow it, it is reported as a CHECK fault
with its raw header, repeated as received, and nothing else happens (R112, R148, R155). In SEARCH and COASTING a packet is
repeated as received and does nothing else (R14, R112). -/
def Obligations.FailedPacketCountsAndReports : Prop :=
  ∀ (s : State) (bytes : List Byte), s.control.resetInput = false →
    let outputs := { s.outputs with thru := s.outputs.thru ++ [.packet bytes] }
    (s.receiver.state = .locked → packetGood bytes = false →
      exec (.packetArrival bytes) s = .next { s with
        health := countFailed s.health
        fault := reportFault .check (decide (6 ≤ bytes.length)) (rawHeader bytes) s.receiver.frame s.fault
        outputs := outputs }) ∧
    (s.receiver.state = .search ∨ s.receiver.state = .coasting →
      exec (.packetArrival bytes) s = .next { s with outputs := outputs })

/-- A good packet in LOCKED: counted by the health monitor and forwarded; with its target in the acceptance map and the unit not
MUTE after that count, it joins the intake queue; otherwise it leaves no further trace. At a full queue, under OVERRUN the
arriving packet is lost, under OVERWRITE the oldest queued one; the loss is counted and reported as a LOST fault with the lost
packet's header (R112, R115, R123, R126 to R129). The acceptance map holds 255, the unit address of a numbered unit, the group
addresses, and nothing else (R114, R117). -/
def Obligations.GoodPacketIsFilteredAndQueued : Prop :=
  (∀ (s : State) (bytes : List Byte), s.control.resetInput = false → s.receiver.state = .locked → packetGood bytes = true →
     let health := countGood s.health
     let outputs := { s.outputs with thru := s.outputs.thru ++ [.packet (forwardedPacket bytes)] }
     let forUs := (rawHeader bytes).target ∈ acceptanceMap s.filter ∧ confinementOf health.errors ≠ .mute
     (¬forUs → exec (.packetArrival bytes) s = .next { s with health := health, outputs := outputs }) ∧
     (forUs → s.intake.queue.length < 4 →
       exec (.packetArrival bytes) s = .next { s with
         health := health, outputs := outputs, intake := { s.intake with queue := s.intake.queue ++ [packetOf bytes] } })) ∧
  (∀ (s : State) (bytes : List Byte) (oldest : Packet) (rest : List Packet), s.control.resetInput = false →
     s.receiver.state = .locked → packetGood bytes = true → (rawHeader bytes).target ∈ acceptanceMap s.filter →
     confinementOf (countGood s.health).errors ≠ .mute → s.intake.queue = oldest :: rest → 3 ≤ rest.length →
     let lost := if s.intake.lost < 255 then s.intake.lost + 1 else 255
     let outputs := { s.outputs with thru := s.outputs.thru ++ [.packet (forwardedPacket bytes)] }
     (s.intake.mode = .overrun →
       exec (.packetArrival bytes) s = .next { s with
         health := countGood s.health, outputs := outputs, intake := { s.intake with lost := lost }
         fault := reportFault .lost true (rawHeader bytes) s.receiver.frame s.fault }) ∧
     (s.intake.mode = .overwrite →
       exec (.packetArrival bytes) s = .next { s with
         health := countGood s.health, outputs := outputs
         intake := { s.intake with queue := rest ++ [packetOf bytes], lost := lost }
         fault := reportFault .lost true oldest.header s.receiver.frame s.fault })) ∧
  (∀ (f : PacketFilter) (b : Byte), b ∈ acceptanceMap f ↔ b = 255#8 ∨ f.hop = some b ∨ b ∈ f.groups)

/-- What the health monitor makes of one check result: the change of E by the state before it, the confinement state from E, the
recovery run, and the WARN latch with its re-arm flag at a crossing of 96 (R148, R149, R152, R153). From entry to MUTE, the
first 63 good packets of an unbroken run leave E at 256, and the 64th sets E to 0 and re-arms the WARN latch without clearing
it (R152). E, the recovery run and the re-arm flag change at packet arrivals alone, power-on reset apart (R148, R153). -/
def Obligations.CheckResultsMoveErrorCount : Prop :=
  (∀ h : Health, HealthLegal h →
     ((countFailed h).errors = min 256 (h.errors + 8) ∧ (countFailed h).muteRun = 0) ∧
     (h.errors < 256 → (countGood h).errors = h.errors - 1 ∧ (countGood h).muteRun = 0) ∧
     (h.errors = 256 → h.muteRun < 63 → countGood h = { h with muteRun := h.muteRun + 1 }) ∧
     (h.errors = 256 → h.muteRun = 63 → countGood h = { h with errors := 0, muteRun := 0, rearm := true }) ∧
     (∀ g, g = countFailed h ∨ g = countGood h →
       (h.errors < 96 → 96 ≤ g.errors → g.warn = (h.warn || h.rearm) ∧ g.rearm = false) ∧
       (96 ≤ h.errors → g.errors < 96 → g.warn = h.warn ∧ g.rearm = true) ∧
       ((h.errors < 96 ↔ g.errors < 96) → g.warn = h.warn ∧ g.rearm = h.rearm)) ∧
     (confinementOf h.errors = .active ↔ h.errors < 128) ∧
     (confinementOf h.errors = .reduced ↔ 128 ≤ h.errors ∧ h.errors ≤ 255) ∧
     (confinementOf h.errors = .mute ↔ h.errors = 256)) ∧
  (∀ (warn rearm : Bool) (n : Nat), n ≤ 64 →
     let entered : Health := { errors := 256, muteRun := 0, warn := warn, rearm := rearm }
     Nat.iterate countGood n entered =
       if n < 64 then { errors := 256, muteRun := n, warn := warn, rearm := rearm }
       else { errors := 0, muteRun := 0, warn := warn, rearm := true }) ∧
  (∀ (c : Instr) (s t : State), exec c s = .next t → (∀ b, c ≠ .powerOnReset b) → (∀ bytes, c ≠ .packetArrival bytes) →
     t.health.errors = s.health.errors ∧ t.health.muteRun = s.health.muteRun ∧ t.health.rearm = s.health.rearm) ∧
  (∀ s : State, confinement s = confinementOf s.health.errors)

/-- A report to an empty fault record occupies it, with its kind, header-complete mark, header and frame number and an overflow
count of 0; a report to an occupied one keeps the fault and adds exactly 1 to the overflow count, up to 255 (R155). An occupied
record keeps its first fault until CLEAR-FAULT or power-on reset: no other command replaces it or lowers its overflow count. The
initialization completion may itself take a CLEAR-FAULT and is left out (R154, R155). -/
def Obligations.FirstFaultIsKeptAndLaterOnesCounted : Prop :=
  (∀ (kind : FaultKind) (complete : Bool) (header : Header) (frame : Byte) (r : FaultRecord),
     (r.entry = none →
       reportFault kind complete header frame r =
         { entry := some { kind := kind, complete := complete, header := header, frame := frame, overflow := 0 }
           guard := r.guard }) ∧
     (∀ e, r.entry = some e →
       reportFault kind complete header frame r =
         { entry := some { e with overflow := if e.overflow < 255 then e.overflow + 1 else 255 }, guard := r.guard })) ∧
  (∀ (c : Instr) (s t : State) (e : FaultEntry), exec c s = .next t → s.fault.entry = some e → e.overflow ≤ 255 →
     (∀ b, c ≠ .powerOnReset b) → c ≠ .clearFault → c ≠ .initializationCompletion →
     ∃ n, t.fault.entry = some { e with overflow := n } ∧ e.overflow ≤ n ∧ n ≤ 255)

/-- The items on the link. A marker, a packet and an answer written with their check read back whole: a marker is the frame
start with its fields, a packet with a body of its length field, at most 272 bytes, passes its check and keeps header and body, and
an answer with a body below 65536 bytes keeps every field. A packet passes its check only so written (R110, R111), bytes are a
frame start only as that marker is written and a malformed marker otherwise (R3, R200; that a marker of another length is malformed
is the model's reading, assumption 16), and bytes are an answer only as it is written. The bytes of each, fields high byte first
(R193, R197, R200), and the check's remainder: FFFFh before the first byte, then for each bit of a byte, the most significant
first, shifted left by one and combined with 1021h where the bit shifted out differs (R194). The raw header fields are the first
bytes received, 00h for a byte not received (R155). -/
def Obligations.LinkItemsReadBackAsWritten : Prop :=
  (∀ (f : Byte) (w h : Half), decodeMarker (encodeMarker f w h) = .frameStart f w h) ∧
  (∀ p : Packet, p.body.length = p.header.length.toNat → p.body.length ≤ 272 →
    packetGood (encodePacket p) = true ∧ packetOf (encodePacket p) = p) ∧
  (∀ a : Answer, a.body.length < 65536 → answerOf (answerBytes a) = some a) ∧
  (∀ bytes : List Byte, packetGood bytes = true →
    ∃ p : Packet, p.body.length = p.header.length.toNat ∧ p.body.length ≤ 272 ∧ bytes = encodePacket p) ∧
  (crc16 [] = 0xFFFF#16 ∧ ∀ (bytes : List Byte) (b : Byte),
    crc16 (bytes ++ [b]) = (List.range 8).foldl
      (fun (r : Half) i => if r.msb = b.getLsbD (7 - i) then r <<< 1 else (r <<< 1) ^^^ 0x1021#16) (crc16 bytes)) ∧
  (let field (x : Half) : List Byte := [byteOf (x.toNat / 256), byteOf x.toNat]
   let closed (bytes : List Byte) : List Byte := bytes ++ field (crc16 bytes)
   (∀ (f : Byte) (w h : Half), encodeMarker f w h = closed ([f] ++ field w ++ field h)) ∧
   (∀ p : Packet, encodePacket p =
     closed ([p.header.target, p.header.verb, p.header.tag, p.header.flags] ++ field p.header.length ++ p.body)) ∧
   (∀ a : Answer, answerBytes a =
     [a.sourceHop, a.verb, a.tag, a.outcome, a.head, byteOf (a.body.length / 256), byteOf a.body.length] ++ a.body ++
       field a.check)) ∧
  (∀ bytes : List Byte, rawHeader bytes =
    { target := bytes.getD 0 0#8, verb := bytes.getD 1 0#8, tag := bytes.getD 2 0#8, flags := bytes.getD 3 0#8
      length := BitVec.ofNat 16 ((bytes.getD 4 0#8).toNat * 256 + (bytes.getD 5 0#8).toNat) }) ∧
  (∀ bytes : List Byte,
     (∀ f w h, decodeMarker bytes = .frameStart f w h ↔ bytes = encodeMarker f w h) ∧
     ((∀ f w h, bytes ≠ encodeMarker f w h) → decodeMarker bytes = .malformedMarker bytes) ∧
     ∀ a, answerOf bytes = some a → bytes = answerBytes a) ∧
  (∀ n : Nat, (byteOf n).toNat = n % 256 ∧ natBytes2 n = [byteOf (n / 256), byteOf n]) ∧
  (∀ (bytes : List Byte) (i : Nat), byteAt bytes i = bytes.getD i 0#8 ∧ natAt bytes i = (bytes.getD i 0#8).toNat ∧
     natAt2 bytes i = natAt bytes i * 256 + natAt bytes (i + 1))

/-- What the thru port forwards of a packet recognised in LOCKED. A packet whose check fails, and a good one of another verb than
DISCOVER, goes on with its bytes as received (R15, R123). A good DISCOVER, whatever follows its two fields in the body, goes on
with a good check, the same header and the rest of its body, its hop field counted up to 15 and its overflow flag set beyond;
with its overflow flag set both go on as received (R118, R200). -/
def Obligations.ThruPortForwardsPacketsAndCountsHop : Prop :=
  (∀ bytes : List Byte, packetGood bytes = false ∨ (rawHeader bytes).verb ≠ 0x10#8 → forwardedPacket bytes = bytes) ∧
  (∀ (header : Header) (hop flag : Byte) (more : List Byte), header.verb = 0x10#8 →
     header.length.toNat = 2 + more.length → more.length ≤ 270 →
     let sent := encodePacket { header := header, body := hop :: flag :: more }
     let next : Byte × Byte :=
       if flag ≠ 0#8 then (hop, flag) else if hop.toNat ≤ 14 then (hop + 1#8, 0#8) else (15#8, 1#8)
     packetGood sent = true ∧ packetGood (forwardedPacket sent) = true ∧
     packetOf (forwardedPacket sent) = { header := header, body := next.1 :: next.2 :: more })

/-! ## Heads -/

/-- A frame start or regain handed to a parked head swaps a commit tagged with its number and does nothing else (R69, R101). A head
frame start of a head in PRIMING, in FILL, or in RUN with nothing owed: the miss count is latched, an untagged commit or one
tagged with the number swaps, the next line is 0, the head is in RUN with its fill timer stopped, and its port begins a frame
(R68, R70, R71, R74, R99). -/
def Obligations.FrameStartSwapsDueCommit : Prop :=
  (∀ (view : View) (regain : Bool) (f : Byte) (h : Head), h.state = .parked →
     (∀ c, h.armed = some c → c.frameTag = some f →
       takeFrameStart view regain f h = { head := swapHead c h, emitted := [], swapped := some c }) ∧
     ((∀ c, h.armed = some c → c.frameTag ≠ some f) →
       takeFrameStart view regain f h = { head := h, emitted := [], swapped := none })) ∧
  (∀ (view : View) (regain : Bool) (f : Byte) (h : Head), HeadLegal h → h.stopPending = false →
     h.state = .priming ∨ h.state = .fill ∨ (h.state = .run ∧ h.nextLine = h.timing.height) →
     let started := { h with state := .run, fillTimer := none, missLatched := h.missRunning, missRunning := 0, nextLine := 0 }
     (∀ c, h.armed = some c → c.frameTag = none ∨ c.frameTag = some f →
       takeFrameStart view regain f h = { head := swapHead c started, emitted := [.frameBegin], swapped := some c }) ∧
     ((∀ c, h.armed = some c → c.frameTag ≠ none ∧ c.frameTag ≠ some f) →
       takeFrameStart view regain f h = { head := started, emitted := [.frameBegin], swapped := none }))

/-- A frame start handed to a head in RUN that owes lines: it forms them all, from the ring and geometry it is given and its tables
as they stand before any swap (or emits them as fill at a regain), and counts one short frame. It then begins its new frame,
swapping an untagged commit or one tagged with the frame number; or, where it is stop-pending, it parks, where an untagged
commit swaps, and takes the frame start as a parked head, where one tagged with its number swaps (R35, R65, R66, R68, R71, R80,
R81, R99, R100, R101). -/
def Obligations.OwedLinesEndTheFrame : Prop :=
  ∀ (view : View) (f : Byte) (h : Head), h.state = .run → h.nextLine < h.timing.height → h.fillTimer = none →
    let lines := (List.range' h.nextLine (h.timing.height - h.nextLine)).map (formLine view h)
    let missed := lines.countP (·.2)
    let short := min 65535 (h.shortFrames + 1)
    let sampled := { h with missLatched := h.missRunning + missed, missRunning := 0
                            missTotal := min 65535 (h.missTotal + missed), shortFrames := short, nextLine := 0 }
    let filled := { h with missLatched := h.missRunning, missRunning := 0, shortFrames := short, nextLine := 0 }
    let fill : List PortItem := List.replicate (h.timing.height - h.nextLine) (.line (fillLine h))
    let due (c : ArmedCommit) : Prop := c.frameTag = none ∨ c.frameTag = some f
    let ends (regain : Bool) (after : Head) (out : List PortItem) : Prop :=
      (∀ c, h.armed = some c → due c →
        takeFrameStart view regain f h = { head := swapHead c after, emitted := out, swapped := some c }) ∧
      ((∀ c, h.armed = some c → ¬due c) →
        takeFrameStart view regain f h = { head := after, emitted := out, swapped := none })
    (h.stopPending = false →
      ends false sampled (lines.map (fun l => .line l.1) ++ [.frameBegin]) ∧ ends true filled (fill ++ [.frameBegin])) ∧
    (h.stopPending = true →
      ends false { sampled with state := .parked, stopPending := false, parkedFlag := true } (lines.map fun l => .line l.1) ∧
      ends true { filled with state := .parked, stopPending := false, parkedFlag := true } fill)

/-- An absence expiry: no effect on a parked head or one in FILL; PRIMING goes to FILL; RUN emits its owed lines as fill, from its
tables as they stand, counts a short frame if any was owed, and goes to FILL with its timer started and its flag set, its armed
commit waiting on. Where it is stop-pending it parks instead, and an untagged commit swaps there (R59, R69, R70, R72, R74, R81,
R99, R100). -/
def Obligations.AbsenceExpiryTurnsHeadsToFill : Prop :=
  ∀ (view : View) (h : Head), h.nextLine ≤ h.timing.height → h.fillTimer = none ∨ h.state = .fill →
    let fill : List PortItem := List.replicate (h.timing.height - h.nextLine) (.line (fillLine h))
    let short := if h.nextLine < h.timing.height then min 65535 (h.shortFrames + 1) else h.shortFrames
    let parked := { h with state := .parked, stopPending := false, parkedFlag := true, nextLine := 0
                           missLatched := h.missRunning, missRunning := 0, shortFrames := short }
    (h.state = .parked ∨ h.state = .fill → takeAbsence view h = { head := h, emitted := [], swapped := none }) ∧
    (h.state = .priming →
      takeAbsence view h =
        { head := { h with state := .fill, fillTimer := some h.timing.fillPeriod, fillFlag := true }
          emitted := [], swapped := none }) ∧
    (h.state = .run → h.stopPending = false →
      takeAbsence view h =
        { head := { h with state := .fill, fillTimer := some h.timing.fillPeriod, fillFlag := true
                           nextLine := h.timing.height, shortFrames := short }
          emitted := fill, swapped := none }) ∧
    (h.state = .run → h.stopPending = true →
      (∀ c, h.armed = some c → c.frameTag = none →
        takeAbsence view h = { head := swapHead c parked, emitted := fill, swapped := some c }) ∧
      ((∀ c, h.armed = some c → c.frameTag ≠ none) →
        takeAbsence view h = { head := parked, emitted := fill, swapped := none }))

/-- The release schedule: at the completion of input line n, a head in RUN forms and emits, in ascending y, exactly the output lines
from its next line on with min(R(y), H_in − 1) ≤ n, counts those with a reach miss, and moves its next line past them; a head in
another state does nothing. A stop-pending head whose next line so reaches H_out parks, and an untagged commit swaps there; one
that still owes lines goes on (R35, R62, R63, R64, R80, R81, R101). -/
def Obligations.RunningHeadReleasesExactlyDueLines : Prop :=
  ∀ (view : View) (n : Nat) (h : Head),
    (h.state ≠ .run → takeLine view n h = { head := h, emitted := [], swapped := none }) ∧
    (h.state = .run → h.missTotal ≤ 65535 →
      ∃ ys : List Nat,
        (∀ y, y ∈ ys ↔ h.nextLine ≤ y ∧ y < h.timing.height ∧
          min (h.timing.delay + y * h.timing.lineStep / 4096) (view.height - 1) ≤ n) ∧
        ys = List.range' h.nextLine ys.length ∧
        let lines := ys.map (formLine view h)
        let missed := lines.countP (·.2)
        let out : List PortItem := lines.map fun l => .line l.1
        let released := { h with nextLine := h.nextLine + ys.length, missRunning := h.missRunning + missed
                                 missTotal := min 65535 (h.missTotal + missed) }
        let parked := { released with state := .parked, stopPending := false, fillTimer := none, nextLine := 0
                                      parkedFlag := true, missLatched := h.missRunning + missed, missRunning := 0 }
        (h.stopPending = false ∨ h.nextLine + ys.length < h.timing.height →
          takeLine view n h = { head := released, emitted := out, swapped := none }) ∧
        (h.stopPending = true → h.timing.height ≤ h.nextLine + ys.length →
          (∀ c, h.armed = some c → c.frameTag = none →
            takeLine view n h = { head := swapHead c parked, emitted := out, swapped := some c }) ∧
          ((∀ c, h.armed = some c → c.frameTag ≠ none) →
            takeLine view n h = { head := parked, emitted := out, swapped := none })))

/-- A swap: each listed table exchanges its banks and leaves a STALE shadow, the others keep theirs, the commit is consumed and
the committed flag is set; nothing else of the head changes (R100). -/
def Obligations.SwapExchangesListedBanks : Prop :=
  ∀ (c : ArmedCommit) (h : Head),
    (∀ t, c.tables.get t = true →
      ((swapHead c h).pairs.get t).live = (h.pairs.get t).shadow ∧
      ((swapHead c h).pairs.get t).shadow = (h.pairs.get t).live ∧ ((swapHead c h).pairs.get t).coverage = []) ∧
    (∀ t, c.tables.get t = false → (swapHead c h).pairs.get t = h.pairs.get t) ∧
    (swapHead c h).armed = none ∧ (swapHead c h).committedFlag = true ∧
    { swapHead c h with pairs := h.pairs, armed := h.armed, committedFlag := h.committedFlag } = h

/-- The COMMITTED answers of an event handed to all four heads, a frame start, a line completion or an absence expiry: one is
generated for each head that swaps at it, a stop-pending head that parks with an untagged commit included, for the packet that
armed its commit, and for no other head; their order is not given (R81, R100 to R102, R165, R166). With the own queue empty and the
unit ACTIVE, each that is wanted therefore joins the queue once and none is dropped (R167). -/
def Obligations.CommittedAnswersOncePerSwappingHead : Prop :=
  ∀ s : State, s.control.resetInput = false →
    let view (ring : List RingLine) : View := { width := s.receiver.width, height := s.receiver.height, ring := ring }
    let line (pixels : List Pixel) : RingLine :=
      { number := s.receiver.lines, pixels := shapeLine s.receiver.width pixels }
    let generated (run : Head → HeadRun) (k : HeadId) : List (State → State) :=
      match (run (s.heads.get k)).swapped with
      | some c => [generate 0x26#8 c.tag c.wanted .committed (some k) []]
      | none => []
    let queued (run : Head → HeadRun) (k : HeadId) : List Answer :=
      match (run (s.heads.get k)).swapped with
      | some c => if c.wanted = true then [makeAnswer s.filter.hop 0x26#8 c.tag .committed (some k) []] else []
      | none => []
    let answered (c : Instr) (run : Head → HeadRun) : Prop :=
      ∃ t, exec c s = .next t ∧
        (∃ order : List HeadId, order.Perm allHeads ∧
          t.answers = ((order.flatMap (generated run)).foldl (fun x answer => answer x) s).answers) ∧
        (s.answers.own = [] → confinement s = .active →
          t.answers.own.Perm (allHeads.flatMap (queued run)) ∧ { t.answers with own := [] } = s.answers)
    (∀ f w h, s.receiver.state ≠ .noSignal →
      answered (.frameStart f w h) (takeFrameStart (view s.ring) (s.receiver.state == .coasting) f)) ∧
    (∀ pixels, s.receiver.state = .locked → s.receiver.lines < s.receiver.height →
      answered (.lineCompletion pixels)
        (takeLine (view ((s.ring ++ [line pixels]).drop (s.ring.length - 255))) s.receiver.lines)) ∧
    (s.receiver.state = .coasting → s.receiver.absenceTimer.isSome = true →
      answered .absenceExpiry (takeAbsence (view s.ring)))

/-- A fill timer expiry of a head in FILL with no commit due: the miss count is latched, one frame of H_out fill lines is
emitted, the next line is H_out and the timer restarts; a tagged commit stays armed (R73). An untagged one swaps first, so
that the fill lines carry the swapped TRIM (R59, R99, R100). A fill line is W_out pixels of the fill codes of the head's live
TRIM (R59). -/
def Obligations.FillTimerExpiryEmitsFillFrame : Prop :=
  (∀ (h : Head) (x : Trim), h.pairs.trim.live = [.trim x] → fillLine h = List.replicate h.timing.width x.fill) ∧
  ∀ (s : State) (k : HeadId), s.control.resetInput = false → (s.heads.get k).state = .fill →
    (s.heads.get k).fillTimer.isSome = true →
    let head := s.heads.get k
    let frame (h : Head) : List PortItem := .frameBegin :: List.replicate h.timing.height (.line (fillLine h))
    let done (h : Head) : Head :=
      { h with missLatched := head.missRunning, missRunning := 0, nextLine := h.timing.height
               fillTimer := some h.timing.fillPeriod }
    let emit (h : Head) : Outputs :=
      { s.outputs with ports := s.outputs.ports.set k (s.outputs.ports.get k ++ frame h) }
    ((∀ c, head.armed = some c → c.frameTag ≠ none) →
      exec (.fillTimerExpiry k) s = .next { s with heads := s.heads.set k (done head), outputs := emit head }) ∧
    (∀ c, head.armed = some c → c.frameTag = none →
      exec (.fillTimerExpiry k) s =
        .next (generate 0x26#8 c.tag c.wanted .committed (some k) []
          { s with heads := s.heads.set k (done (swapHead c head)), outputs := emit (swapHead c head) }))

/-! ## Sampling and the light path -/

/-- The source coordinate (R25): the corner weights are non-negative and sum to C²; sx and sy are each the weighted sum of the
four corners plus half of C², divided by C² with the floor; the result lies between the smallest and the largest corner value,
so it stays within −131072..131071, and at fx = fy = 0 it is P00's. -/
def Obligations.InterpolationStaysBetweenCorners : Prop :=
  (∀ (c fx fy : Nat) (v00 v10 v01 v11 : Int), fx < c → fy < c →
     let result := bilinear c fx fy v00 v10 v01 v11
     let w00 : Int := (c - fx) * (c - fy)
     let w10 : Int := fx * (c - fy)
     let w01 : Int := (c - fx) * fy
     let w11 : Int := fx * fy
     (0 ≤ w00 ∧ 0 ≤ w10 ∧ 0 ≤ w01 ∧ 0 ≤ w11 ∧ w00 + w10 + w01 + w11 = (c : Int) ^ 2) ∧
     result = (w00 * v00 + w10 * v10 + w01 * v01 + w11 * v11 + (c : Int) ^ 2 / 2) / (c : Int) ^ 2 ∧
     min (min v00 v10) (min v01 v11) ≤ result ∧ result ≤ max (max v00 v10) (max v01 v11) ∧
     ((∀ x ∈ [v00, v10, v01, v11], -131072 ≤ x ∧ x ≤ 131071) → -131072 ≤ result ∧ result ≤ 131071) ∧
     bilinear c 0 0 v00 v10 v01 v11 = v00) ∧
  (∀ (bank : Bank) (c u v : Nat),
     let p (m n : Nat) := bankPoint bank (u / c + m) (v / c + n)
     sourceCoordinate bank c u v =
       (bilinear c (u % c) (v % c) (p 0 0).sx (p 1 0).sx (p 0 1).sx (p 1 1).sx,
        bilinear c (u % c) (v % c) (p 0 0).sy (p 1 0).sy (p 0 1).sy (p 1 1).sy))

/-- The taps of a source coordinate: four places one pixel apart, with weights that sum to 256; those of weight 0 are not
fetched, so a sample has one, two or four taps (R27, R28). -/
def Obligations.FetchedTapWeightsSumTo256 : Prop :=
  ∀ (v : View) (h : MeshHeader) (sx sy : Int),
    let ax := (sx % 16).toNat
    let ay := (sy % 16).toNat
    tapPlaces sx sy =
      [(sy / 16, sx / 16, (16 - ax) * (16 - ay)), (sy / 16, sx / 16 + 1, ax * (16 - ay)),
        (sy / 16 + 1, sx / 16, (16 - ax) * ay), (sy / 16 + 1, sx / 16 + 1, ax * ay)] ∧
    sx = 16 * (sx / 16) + ax ∧ ax ≤ 15 ∧ sy = 16 * (sy / 16) + ay ∧ ay ≤ 15 ∧
    ((sampleAt v h sx sy).map Tap.weight).sum = 256 ∧ (∀ t ∈ sampleAt v h sx sy, t.weight ≠ 0) ∧
    ((sampleAt v h sx sy).length = if ax = 0 ∧ ay = 0 then 1 else if ax = 0 ∨ ay = 0 then 2 else 4)

/-- The window and reach steps for a tap: inside the effective window it is fetched where it is; outside, EXTEND clamps it into
the window and BLACK gives it the value 0 without a miss; an empty window gives 0 without a miss; a row that is not held is
moved to the nearest held row and is a miss, and an empty ring gives 0 and a miss (R29 to R33). What a held row delivers at a
column is the pixel of the held line of that number at that column (R13, R34). -/
def Obligations.TapsFollowWindowAndReach : Prop :=
  (∀ (ring : List RingLine) (l : RingLine) (col : Nat) (p : Pixel), l ∈ ring → (ring.map RingLine.number).Nodup →
     l.pixels[col]? = some p → ringPixel ring l.number col = p) ∧
  ∀ (v : View) (h : MeshHeader) (row col : Int),
    let right : Int := min (h.ox + h.wx : Int) v.width - 1
    let bottom : Int := min (h.oy + h.wy : Int) v.height - 1
    let empty := right < h.ox ∨ bottom < h.oy
    let inside := h.ox ≤ col ∧ col ≤ right ∧ h.oy ≤ row ∧ row ≤ bottom
    (empty → fetchTap v h row col = (blackPixel, false)) ∧
    (¬empty → inside → fetchTap v h row col = reach v.ring row col) ∧
    (¬empty → ¬inside → h.edge = .black → fetchTap v h row col = (blackPixel, false)) ∧
    (¬empty → ¬inside → h.edge = .extend →
      fetchTap v h row col = reach v.ring (max h.oy (min row bottom)) (max h.ox (min col right))) ∧
    (reach [] row col = (blackPixel, true)) ∧
    (∀ lo hi, v.ring.head? = some lo → v.ring.getLast? = some hi → lo.number ≤ hi.number →
      (lo.number ≤ row → row ≤ hi.number → reach v.ring row col = (ringPixel v.ring row col, false)) ∧
      (row < lo.number → reach v.ring row col = (ringPixel v.ring lo.number col, true)) ∧
      (hi.number < row → reach v.ring row col = (ringPixel v.ring hi.number col, true)))

/-- What a sampled line is: it has W_out pixels, pixel u the light unit's codes for what the warp unit samples at (u, y) from the
live MESH, and it holds a reach miss exactly where a fetched tap of one of its pixels is one. A pixel with a blank corner is
blank, and leaves as code 0 on all channels without a miss; any other samples its interpolated source coordinate. The taps of a
coordinate carry the values and misses of the window and reach steps at its places of weight above 0, and the tap filter of a
channel is their weighted sum of codes, plus 128, divided by 256 (R26, R28, R34, R35, R40, R42, R58). The mesh header stands in
segment 0, and point (i, j) is entry i of segment j + 1 (R19). -/
def Obligations.FormedLineSamplesEveryPixel : Prop :=
  (∀ (view : View) (head : Head) (y : Nat),
     let sampled (u : Nat) : Sample := samplePixel view head.pairs.mesh.live (meshCell head.timing) u y
     (formLine view head y).1.length = head.timing.width ∧
     (∀ u, u < head.timing.width → (formLine view head y).1[u]? = some (lightPixel head u y (sampled u))) ∧
     ((formLine view head y).2 = true ↔
       ∃ u ts t, u < head.timing.width ∧ sampled u = .taps ts ∧ t ∈ ts ∧ t.missed = true)) ∧
  (∀ (head : Head) (u y : Nat), lightPixel head u y .blank = ⟨0, 0, 0⟩) ∧
  (∀ (view : View) (bank : Bank) (c u v : Nat),
     let corner (i j : Nat) := bankPoint bank (u / c + i) (v / c + j)
     let anyBlank := (corner 0 0).blank = true ∨ (corner 1 0).blank = true ∨ (corner 0 1).blank = true ∨
       (corner 1 1).blank = true
     let source := sourceCoordinate bank c u v
     (anyBlank → samplePixel view bank c u v = .blank) ∧
     (¬anyBlank → samplePixel view bank c u v = .taps (sampleAt view (bankHeader bank) source.1 source.2))) ∧
  (∀ (view : View) (h : MeshHeader) (sx sy : Int) (channel : Pixel → Nat),
     let ax := (sx % 16).toNat
     let ay := (sy % 16).toNat
     let code (dy dx : Int) : Nat := channel (fetchTap view h (sy / 16 + dy) (sx / 16 + dx)).1
     tapFilter channel (sampleAt view h sx sy) =
       ((16 - ax) * (16 - ay) * code 0 0 + ax * (16 - ay) * code 0 1 + (16 - ax) * ay * code 1 0 + ax * ay * code 1 1
         + 128) / 256 ∧
     ∀ t : Tap, t ∈ sampleAt view h sx sy ↔
       ∃ row col, (row, col, t.weight) ∈ tapPlaces sx sy ∧ t.weight ≠ 0 ∧ fetchTap view h row col = (t.value, t.missed)) ∧
  (∀ (bank : Bank) (h : MeshHeader), bank[0]? = some (.header h) → bankHeader bank = h) ∧
  (∀ (bank : Bank) (i j : Nat) (row : List MeshPoint) (p : MeshPoint), bank[j + 1]? = some (.points row) →
     row[i]? = some p → bankPoint bank i j = p)

/-- The light path of a pixel that is not blank: on each channel the tap filter's code is decoded, trimmed with the channel's gain
and offset, weighted by the blend weight, given the tapered lift, capped at 65535 and encoded by its sixteenth; weight and lift
are shared by the channels, and rounded means of the four corners of the pixel's blend cell, an absent lift entering as 0. Entry
e of DECODE or ENCODE stands in segment e / 64 (R41 to R43, R46, R51 to R56). -/
def Obligations.LightPathFollowsItsStages : Prop :=
  (∀ (head : Head) (u v : Nat) (ts : List Tap) (x : Trim), head.pairs.trim.live = [.trim x] →
     let w := blendWeight head.pairs.blend.live (2 ^ head.timing.b) u v
     let k := blendLift head.pairs.blend.live (2 ^ head.timing.b) u v
     let out (gain : Nat) (offset : Int) (channel : Pixel → Nat) : Nat :=
       let e := ((ts.map fun t => t.weight * channel t.value).sum + 128) / 256
       let l := bankValue head.pairs.decode.live e
       let l1 := (max 0 (min (((l : Int) * gain + 2048) / 4096 + offset) 65535)).toNat
       let lw := (l1 * w + 2048) / 4096
       let lk := k * (65536 - l1) / 65536
       bankValue head.pairs.encode.live (min 65535 (lw + lk) / 16)
     lightPixel head u v (.taps ts) =
       ⟨out x.gain.r x.offset.r (·.r), out x.gain.g x.offset.g (·.g), out x.gain.b x.offset.b (·.b)⟩) ∧
  (∀ (bank : Bank) (entries : List Nat) (e code : Nat), bank[e / 64]? = some (.values entries) →
     entries[e % 64]? = some code → bankValue bank e = code) ∧
  (∀ (bank : Bank) (c u v : Nat), 0 < c →
     let q (i j : Nat) := bankBlend bank (u / c + i) (v / c + j)
     let mean (f : BlendPoint → Nat) : Nat :=
       ((c - u % c) * (c - v % c) * f (q 0 0) + u % c * (c - v % c) * f (q 1 0) + (c - u % c) * (v % c) * f (q 0 1) +
         u % c * (v % c) * f (q 1 1) + c ^ 2 / 2) / c ^ 2
     blendWeight bank c u v = mean BlendPoint.weight ∧ blendLift bank c u v = mean fun p => p.lift.getD 0) ∧
  (∀ (bank : Bank) (m n : Nat) (row : List BlendPoint) (p : BlendPoint), bank[n]? = some (.blends row) →
     row[m]? = some p → bankBlend bank m n = p)

/-- Under the identity mesh of a timing and a window, whose header is the window clamped in order with edge policy EXTEND, every
output pixel (u, v) has the source coordinate of input pixel (Ox + u, Oy + v) exactly, with no blank corner, and samples one tap of
weight 256, fetched there (R21, R22, R27, R28). A unity blend holds weight 4096 and no lift at every point, and gives every pixel
W = 4096 and K = 0 (R50). With it, the default decode and encode and the default trim, a pixel that samples one tap of weight 256
leaves the light unit with the tap's codes (R44, R45, R57). A head with the identity mesh and these tables thus emits at (u, v)
what is fetched at (Ox + u, Oy + v), its codes unchanged. -/
def Obligations.IdentityTablesShowInputUnchanged : Prop :=
  (∀ (t : Timing) (ox oy wx wy u v : Nat) (view : View), u < t.width → v < t.height →
     let x := min ox 4095
     let y := min oy 2303
     let mesh := identityMesh t ox oy wx wy
     let header : MeshHeader :=
       { ox := x, oy := y, wx := max 1 (min wx (4096 - x)), wy := max 1 (min wy (2304 - y)), edge := .extend }
     let input := fetchTap view header ((y + v : Nat) : Int) ((x + u : Nat) : Int)
     bankHeader mesh = header ∧
     (∀ i j, i < meshAcross t → j < meshDown t →
       bankPoint mesh i j = { sx := ((x + i * 2 ^ t.k) * 16 : Nat), sy := ((y + j * 2 ^ t.k) * 16 : Nat), blank := false }) ∧
     sourceCoordinate mesh (meshCell t) u v = ((((x + u) * 16 : Nat) : Int), (((y + v) * 16 : Nat) : Int)) ∧
     cellBlank mesh (meshCell t) u v = false ∧
     samplePixel view mesh (meshCell t) u v = .taps [{ weight := 256, value := input.1, missed := input.2 }]) ∧
  (∀ (t : Timing) (u v : Nat), u < t.width → v < t.height →
     (∀ m n, m < blendAcross t → n < blendDown t → bankBlend (unityBlend t) m n = { weight := 4096, lift := none }) ∧
     blendWeight (unityBlend t) (blendCell t) u v = 4096 ∧ blendLift (unityBlend t) (blendCell t) u v = 0) ∧
  (∀ e : Nat, e ≤ 1023 → lightChannel defaultDecode defaultEncode 4096 0 4096 0 e = e) ∧
  (∀ (h : Head) (ox oy wx wy u v : Nat) (view : View), u < h.timing.width → v < h.timing.height →
     h.pairs.mesh.live = identityMesh h.timing ox oy wx wy → h.pairs.blend.live = unityBlend h.timing →
     h.pairs.decode.live = defaultDecode → h.pairs.encode.live = defaultEncode → h.pairs.trim.live = defaultTrim →
     (∀ (p : Pixel) (missed : Bool), p.r ≤ 1023 → p.g ≤ 1023 → p.b ≤ 1023 →
       lightPixel h u v (.taps [{ weight := 256, value := p, missed := missed }]) = p) ∧
     (∀ (p : Pixel) (missed : Bool), p.r ≤ 1023 → p.g ≤ 1023 → p.b ≤ 1023 →
       fetchTap view (bankHeader h.pairs.mesh.live) ((min oy 2303 + v : Nat) : Int) ((min ox 4095 + u : Nat) : Int) = (p, missed) →
       (formLine view h v).1[u]? = some p))

/-- The trim stage: the rounded product, the offset, the clamp; unity gain with offset 0 leaves the light unchanged, and gain 0
gives the clamped offset (R46). The weighted light: full weight passes the light, weight 0 gives 0, and it never exceeds the
light (R53). The lift taper: K at no light, 0 at full light, never above K, and falling as the light rises (R54). The sum of the
last two never exceeds 65535. -/
def Obligations.LightStagesRoundClampAndStayInRange : Prop :=
  (∀ (l g : Nat) (o : Int), l ≤ 65535 →
     (trimLight g o l : Int) = max 0 (min (((l : Int) * g + 2048) / 4096 + o) 65535) ∧
     trimLight 4096 0 l = l ∧ (trimLight 0 o l : Int) = max 0 (min o 65535)) ∧
  (∀ l w : Nat, weightLight l w = (l * w + 2048) / 4096 ∧ weightLight l 4096 = l ∧ weightLight l 0 = 0 ∧
     (w ≤ 4096 → weightLight l w ≤ l)) ∧
  (∀ k l w : Nat, k ≤ 4095 → l ≤ 65535 → w ≤ 4096 →
     taperLift k l = k * (65536 - l) / 65536 ∧ taperLift k 0 = k ∧ taperLift k 65535 = 0 ∧ taperLift k l ≤ k ∧
     (∀ more, l ≤ more → taperLift k more ≤ taperLift k l) ∧
     weightLight l w + taperLift k l ≤ 65535 ∧ (weightLight l w + taperLift k l) / 16 ≤ 4095)

/-- A segment written over the link and read back is the segment that was stored: for every legal segment of a table with its
form's entries, reading its bytes as that table's entries gives it back (R90, R196). The bytes are the entry count times the
entry's size; the edge policy byte is 01h for BLACK and 00h for EXTEND, and bits 7..1 of a point's flags byte go out as 0 (R196). -/
def Obligations.SegmentBytesReadBackAsStored : Prop :=
  (∀ h : MeshHeader, segmentLegal .mesh (.header h) →
    readSegment .mesh false 0 1 (segmentBytes (.header h)) = .header h) ∧
  (∀ (row : List MeshPoint) (seg : Nat), seg ≠ 0 → segmentLegal .mesh (.points row) →
    readSegment .mesh false seg row.length (segmentBytes (.points row)) = .points row) ∧
  (∀ (row : List BlendPoint) (lifts : Bool) (seg : Nat), segmentLegal .blend (.blends row) →
    (∀ q ∈ row, q.lift.isSome = lifts) →
    readSegment .blend lifts seg row.length (segmentBytes (.blends row)) = .blends row) ∧
  (∀ (entries : List Nat) (seg : Nat), segmentLegal .decode (.values entries) →
    readSegment .decode false seg entries.length (segmentBytes (.values entries)) = .values entries) ∧
  (∀ (entries : List Nat) (seg : Nat), segmentLegal .encode (.values entries) →
    readSegment .encode false seg entries.length (segmentBytes (.values entries)) = .values entries) ∧
  (∀ (x : Trim) (seg : Nat), segmentLegal .trim (.trim x) →
    readSegment .trim false seg 9 (segmentBytes (.trim x)) = .trim x) ∧
  (∀ h : MeshHeader, (segmentBytes (.header h)).length = 9 ∧
    byteAt (segmentBytes (.header h)) 8 = if h.edge = .black then 1#8 else 0#8) ∧
  (∀ row : List MeshPoint, (segmentBytes (.points row)).length = row.length * 7 ∧
    ∀ i p, row[i]? = some p → byteAt (segmentBytes (.points row)) (7 * i + 6) = if p.blank = true then 1#8 else 0#8) ∧
  (∀ (row : List BlendPoint) (lifts : Bool), (∀ q ∈ row, q.lift.isSome = lifts) →
    (segmentBytes (.blends row)).length = row.length * if lifts = true then 4 else 2) ∧
  (∀ entries : List Nat, (segmentBytes (.values entries)).length = entries.length * 2) ∧
  (∀ x : Trim, (segmentBytes (.trim x)).length = 9 * 2)

/-! ## Answers and the return lane -/

/-- The generation of an answer: where its flag is set and the confinement state allows it, it joins the own queue, or is
dropped and counted where the queue holds 4; otherwise nothing changes (R150, R165, R167, R168). The answer to a packet echoes
its verb, its tag and its flag (R139). An answer as it is made: its fields with their codes, and its check over header and body
(R164, R197). -/
def Obligations.AnswerGeneratedOrSuppressedOrDropped : Prop :=
  (∀ (hop : Option Byte) (verb tag : Byte) (o : OutcomeCode) (head : Option HeadId) (body : List Byte),
     let source : Byte := hop.getD 0xFF#8
     let outcome : Byte := match o with
       | .done => 0x00#8 | .armed => 0x01#8 | .committed => 0x02#8 | .cancelled => 0x03#8 | .busy => 0x10#8
       | .badState => 0x11#8 | .badArg => 0x12#8 | .badForm => 0x13#8 | .notReady => 0x14#8 | .held => 0x15#8
     let index : Byte := match head with
       | none => 0xFF#8 | some .h0 => 0#8 | some .h1 => 1#8 | some .h2 => 2#8 | some .h3 => 3#8
     outcomeByte o = outcome ∧ makeAnswer hop verb tag o head body =
       { sourceHop := source, verb := verb, tag := tag, outcome := outcome, head := index, body := body
         check := crc16 ([source, verb, tag, outcome, index, byteOf (body.length / 256), byteOf body.length] ++ body) }) ∧
  (∀ (p : Packet) (o : OutcomeCode) (body : List Byte) (s : State),
     answerPacket p o body s = generate p.header.verb p.header.tag (p.header.flags.getLsbD 7) o none body s) ∧
  ∀ (verb tag : Byte) (wanted : Bool) (o : OutcomeCode) (head : Option HeadId) (body : List Byte) (s : State),
    let allowed := wanted = true ∧
      (confinement s = .active ∨ (confinement s = .reduced ∧ verb = 0x17#8))
    let a := makeAnswer s.filter.hop verb tag o head body
    (¬allowed → generate verb tag wanted o head body s = s) ∧
    (allowed → s.answers.own.length < 4 →
      generate verb tag wanted o head body s = { s with answers := { s.answers with own := s.answers.own ++ [a] } }) ∧
    (allowed → 4 ≤ s.answers.own.length →
      generate verb tag wanted o head body s =
        { s with answers := { s.answers with lost := if s.answers.lost < 255 then s.answers.lost + 1 else 255 } })

/-- A send start with the lane free: the only waiting store is served; with both waiting, the merge mode and the last-served mark
choose; the answer leaves the front of its store and the mark names that store (R171, R172). With a send in progress, with the
lane held back by the partner above, or with nothing waiting there is no send start, and its command changes nothing (R171,
assumption 2). The unit holds back the unit below exactly while its relay holding holds 2 answers: from the relay arrival that
brings it to 2 to the send start that takes it to 1 (R170, R172). A send completion ends the send, and the answer has reached the
partner whole where it has arrived; the lane is then free unless the partner holds it back, by a hold-back it asserted before or
asserts at the completion. A relay arrival joins the relay holding unjudged. A hold-back release takes the partner's hold off the
lane, and its assertion puts it on, idle or in a send, whose answer in flight goes on and completes; both in every state, and
RESET-UNIT and power-on reset leave the partner's hold as it is (R169 to R171; the assertion is an operand of the completion and of
the release, and these readings are the model's choice, assumption 9). -/
def Obligations.LaneServesByMergeModeAndDelivers : Prop :=
  (∀ (s : State), s.control.resetInput = false → s.answers.sending = none → s.answers.heldBack = false →
     let x := s.answers
     (∀ a rest, x.own = a :: rest →
       (x.relay = [] ∨ x.mode = .ownFirst ∨ (x.mode = .alternate ∧ x.lastServed = .relay)) →
       exec .sendStart s = .next { s with answers := { x with own := rest, sending := some a, lastServed := .own } }) ∧
     (∀ a rest, x.relay = a :: rest →
       (x.own = [] ∨ x.mode = .relayFirst ∨ (x.mode = .alternate ∧ x.lastServed = .own)) →
       exec .sendStart s = .next { s with answers := { x with relay := rest, sending := some a, lastServed := .relay } }) ∧
     (x.own = [] → x.relay = [] → exec .sendStart s = .next s)) ∧
  (∀ (s : State), s.control.resetInput = false →
     (∀ a held, s.answers.sending = some a →
       exec (.sendCompletion held true) s = .next { s with
         answers := { s.answers with sending := none, heldBack := s.answers.heldBack || held }
         outputs := { s.outputs with returned := s.outputs.returned ++ [a] } } ∧
       exec (.sendCompletion held false) s =
         .next { s with answers := { s.answers with sending := none, heldBack := s.answers.heldBack || held } }) ∧
     (∀ a, s.answers.relay.length < 2 →
       exec (.relayArrival a) s = .next { s with answers := { s.answers with relay := s.answers.relay ++ [a] } }) ∧
     (∀ a, s.answers.relay.length = 1 → holdsBackBelow { s.answers with relay := s.answers.relay ++ [a] } = true)) ∧
  (∀ (s : State) (asserted : Bool),
     exec (.holdBackRelease asserted) s = .next { s with answers := { s.answers with heldBack := asserted } }) ∧
  (∀ (c : Instr) (s t : State), exec c s = .next t → (∀ b, c ≠ .holdBackRelease b) →
     ((∀ arrived, c ≠ .sendCompletion true arrived) → t.answers.heldBack = s.answers.heldBack) ∧
     (s.answers.heldBack = true → t.answers.heldBack = true)) ∧
  (∀ s : State, s.answers.sending ≠ none ∨ s.answers.heldBack = true → exec .sendStart s = .next s) ∧
  (∀ x : AnswerSide, x.relay.length ≤ 2 → (holdsBackBelow x = true ↔ x.relay.length = 2)) ∧
  (∀ (s : State) (a b : Answer), s.control.resetInput = false → s.answers.sending = none → s.answers.heldBack = false →
     s.answers.relay = [a, b] →
     (s.answers.own = [] ∨ s.answers.mode = .relayFirst ∨ (s.answers.mode = .alternate ∧ s.answers.lastServed = .own)) →
     ∃ t, exec .sendStart s = .next t ∧ t.answers.sending = some a ∧ t.answers.relay = [b] ∧
       holdsBackBelow s.answers = true ∧ holdsBackBelow t.answers = false)

/-! ## Takes: refusals -/

/-- What a refusal does, and all it does: the last-refusal record is replaced, and an answer with the outcome and an empty body is
generated (R137, R139, R140). A packet whose form does not suit its verb, or whose verb code is unknown, is refused BAD-FORM at
its take and reported as a FORM fault, whatever its head mask; a head verb whose mask names no head is refused BAD-ARG (R135,
R136). The seventeen verbs: their codes, their takes, which are head verbs, and the body length that makes their form correct,
which for SET-ACCEPT and WRITE-TABLE follows the counted entries (R135, R136, R195, R196). The heads a mask names and the tables a
table set names, by their bits, in ascending order (R82, R193). -/
def Obligations.RefusedTakesOnlyRecordAndAnswer : Prop :=
  (∀ (o : OutcomeCode) (p : Packet) (s : State),
     let recorded : State := { s with loader := { s.loader with
       lastRefusal := some { verb := p.header.verb, tag := p.header.tag, outcome := o, frame := s.receiver.frame } } }
     refuseTake o p s = generate p.header.verb p.header.tag (p.header.flags.getLsbD 7) o none [] recorded ∧
     (refuseTake o p s).heads = s.heads ∧ (refuseTake o p s).filter = s.filter ∧ (refuseTake o p s).receiver = s.receiver ∧
     (refuseTake o p s).intake = s.intake ∧ (refuseTake o p s).copy = s.copy ∧ (refuseTake o p s).fault = s.fault ∧
     (refuseTake o p s).loader.state = s.loader.state) ∧
  (∀ (s : State) (p : Packet) (rest : List Packet), s.control.resetInput = false → s.loader.state = .idle →
     s.control.state = .ready → s.intake.queue = p :: rest →
     let badForm : State := refuseTake .badForm p
       { afterTake rest s with fault := reportFault .form true p.header s.receiver.frame s.fault }
     (verbOf p.header.verb = none → exec .unknownVerb s = .next badForm) ∧
     (∀ v, verbOf p.header.verb = some v → formCorrect v p = false → exec (takeCommand p) s = .next badForm) ∧
     (∀ v, verbOf p.header.verb = some v → formCorrect v p = true → isHeadVerb v = true → packetHeads p = [] →
       exec (takeCommand p) s = .next (refuseTake .badArg p (afterTake rest s)))) ∧
  (let verbs : List (Byte × Verb × Instr × Bool × Option Nat) :=
     [(0x10#8, .discover, .discover, false, some 2), (0x11#8, .setAccept, .setAccept, false, none),
      (0x12#8, .setLink, .setLink, false, some 2), (0x13#8, .setIntake, .setIntake, false, some 1),
      (0x14#8, .setGuard, .setGuard, false, some 1), (0x15#8, .setReturn, .setReturn, false, some 1),
      (0x16#8, .clearFault, .clearFault, false, some 1), (0x17#8, .readStatus, .readStatus, false, some 0),
      (0x18#8, .resetUnit, .resetUnit, false, some 0), (0x20#8, .setTiming, .setTiming, true, some 20),
      (0x21#8, .start, .start, true, some 0), (0x22#8, .stop, .stop, true, some 0),
      (0x23#8, .writeTable, .writeTable, true, none), (0x24#8, .readTable, .readTable, true, some 3),
      (0x25#8, .sync, .sync, true, some 1), (0x26#8, .commit, .commit, true, some 3), (0x27#8, .cancel, .cancel, true, some 1)]
   (∀ (code : Byte) (v : Verb) (c : Instr) (ofHeads : Bool) (fixed : Option Nat), (code, v, c, ofHeads, fixed) ∈ verbs →
     verbOf code = some v ∧ isHeadVerb v = ofHeads ∧ (∀ p, p.header.verb = code → takeCommand p = c) ∧
     ∀ n, fixed = some n → ∀ p, (formCorrect v p = true ↔ p.body.length = n)) ∧
   (∀ code : Byte, code ∉ verbs.map Prod.fst →
     verbOf code = none ∧ ∀ p, p.header.verb = code → takeCommand p = .unknownVerb) ∧
   (∀ p, formCorrect .setAccept p = true ↔ p.body.length = 2 + natAt p.body 1) ∧
   (∀ p,
     let size := match natAt p.body 0 with
       | 0 => if natAt p.body 2 = 0 then 9 else 7
       | 1 => if natAt p.body 1 = 0 then 2 else if natAt p.body 1 = 1 then 4 else 0
       | 2 => 2
       | 3 => 2
       | 4 => 2
       | _ => 0
     (formCorrect .writeTable p = true ↔ p.body.length = 4 + natAt p.body 3 * size))) ∧
  (∀ p : Packet, packetHeads p =
     (if p.header.flags.getLsbD 0 = true then [HeadId.h0] else []) ++ (if p.header.flags.getLsbD 1 = true then [.h1] else []) ++
       (if p.header.flags.getLsbD 2 = true then [.h2] else []) ++ (if p.header.flags.getLsbD 3 = true then [.h3] else [])) ∧
  (∀ b : Byte, setTables (tableSetOf b) =
     (if b.getLsbD 0 = true then [Table.mesh] else []) ++ (if b.getLsbD 1 = true then [.blend] else []) ++
       (if b.getLsbD 2 = true then [.decode] else []) ++ (if b.getLsbD 3 = true then [.encode] else []) ++
       (if b.getLsbD 4 = true then [.trim] else [])) ∧
  (allHeads.map headIndex = [0, 1, 2, 3] ∧ allTables.map tableCode = [0, 1, 2, 3, 4]) ∧
  (∀ (p : Packet) (h : HeadId), (packetMask p).get h = p.header.flags.getLsbD (headIndex h)) ∧
  (∀ (b : Byte) (t : Table), (tableSetOf b).get t = b.getLsbD (tableCode t)) ∧
  (∀ (x : TableSet) (t : Table), t ∈ setTables x ↔ x.get t = true)

/-- The refusals of the verbs' own rules that depend on state: START and SET-TIMING on a head that is not parked (R76, R78),
COMMIT and SET-TIMING held by an occupied record under STRICT (R76, R97, R158), a second COMMIT and a SYNC or WRITE-TABLE of an
occupied pair (R86, R92, R97), and a COMMIT of a shadow that is not READY (R97). -/
def Obligations.OccupiedOrUnreadyTakesAreRefused : Prop :=
  ∀ (s : State) (p : Packet) (rest : List Packet),
    let s1 := afterTake rest s
    let tableSet := tableSetOf (byteAt p.body 0)
    let guardPassed := s.fault.guard = .lenient ∨ s.fault.entry = none
    (Takes .start p rest s → (∃ h ∈ packetHeads p, (s.heads.get h).state ≠ .parked) →
      exec .start s = .next (refuseTake .badState p s1)) ∧
    (∀ h, Takes .setTiming p rest s → packetHeads p = [h] → (s.heads.get h).state ≠ .parked →
      exec .setTiming s = .next (refuseTake .badState p s1)) ∧
    (∀ h, Takes .setTiming p rest s → packetHeads p = [h] → (s.heads.get h).state = .parked → s.fault.guard = .strict →
      s.fault.entry ≠ none → exec .setTiming s = .next (refuseTake .held p s1)) ∧
    (Takes .commit p rest s → packetHeads p ≠ [] → setTables tableSet ≠ [] → s.fault.guard = .strict →
      s.fault.entry ≠ none → exec .commit s = .next (refuseTake .held p s1)) ∧
    (Takes .commit p rest s → setTables tableSet ≠ [] → guardPassed →
      (∃ h ∈ packetHeads p, (s.heads.get h).armed ≠ none) → exec .commit s = .next (refuseTake .busy p s1)) ∧
    (Takes .commit p rest s → setTables tableSet ≠ [] → guardPassed →
      (∀ h ∈ packetHeads p, (s.heads.get h).armed = none) →
      (∃ h ∈ packetHeads p, ∃ t, tableSet.get t = true ∧ shadowState s h t ≠ .ready) →
      exec .commit s = .next (refuseTake .notReady p s1)) ∧
    (Takes .sync p rest s →
      (∃ h ∈ packetHeads p, ∃ t, tableSet.get t = true ∧ (shadowState s h t = .syncing ∨ shadowState s h t = .armed)) →
      exec .sync s = .next (refuseTake .busy p s1)) ∧
    (∀ t, Takes .writeTable p rest s → tableOf (natAt p.body 0) = some t → (t = .blend → natAt p.body 1 ≤ 1) →
      (∀ h ∈ packetHeads p, natAt p.body 2 < segmentCount (s.heads.get h).timing t ∧
        natAt p.body 3 = entryCount (s.heads.get h).timing t (natAt p.body 2)) →
      (∃ h ∈ packetHeads p, shadowState s h t = .syncing ∨ shadowState s h t = .armed) →
      exec .writeTable s = .next (refuseTake .busy p s1))

/-- The BAD-ARG refusals of the verbs' own rules. SET-TIMING of not exactly one head, or of a parked head, past the guard, with a
field out of range or a mesh or blend grid that does not fit (R18, R47, R60, R76). WRITE-TABLE of no defined table, of a BLEND
form that is none, or where the segment or the entry count suits not every masked head (R86). READ-TABLE of not exactly one head,
of no defined table or bank, or past the table's segments (R89). SYNC, COMMIT and CANCEL of no table (R92, R97, R104). SET-ACCEPT
of no defined action, of no address or above 8, or of an address outside 16..254 (R121). A SET-TIMING's fields stand in its body
high byte first (R195); the table codes (R196); the mesh and blend points, the segments and the entries that a timing gives each
table (R18, R19, R43, R45, R47, R49, R56). -/
def Obligations.ArgumentsOutsideTheirRangeAreRefused : Prop :=
  (∀ (s : State) (p : Packet) (rest : List Packet),
     let refused : Host.Outcome State Fault Refusal := .next (refuseTake .badArg p (afterTake rest s))
     let timing := readTiming p.body
     let listed := (p.body.drop 2).take (natAt p.body 1)
     (Takes .setTiming p rest s → (∀ h, packetHeads p ≠ [h]) → exec .setTiming s = refused) ∧
     (∀ h, Takes .setTiming p rest s → packetHeads p = [h] → (s.heads.get h).state = .parked →
       (s.fault.guard = .lenient ∨ s.fault.entry = none) →
       (timingInRange timing = false ∨ meshFits timing = false ∨ blendFits timing = false) → exec .setTiming s = refused) ∧
     (Takes .writeTable p rest s → tableOf (natAt p.body 0) = none → exec .writeTable s = refused) ∧
     (∀ t, Takes .writeTable p rest s → tableOf (natAt p.body 0) = some t →
       ((t = .blend ∧ 1 < natAt p.body 1) ∨
         ∃ h ∈ packetHeads p, segmentCount (s.heads.get h).timing t ≤ natAt p.body 2 ∨
           natAt p.body 3 ≠ entryCount (s.heads.get h).timing t (natAt p.body 2)) →
       exec .writeTable s = refused) ∧
     (Takes .readTable p rest s →
       ((∀ h, packetHeads p ≠ [h]) ∨ tableOf (natAt p.body 0) = none ∨ 1 < natAt p.body 1 ∨
         ∃ h t, packetHeads p = [h] ∧ tableOf (natAt p.body 0) = some t ∧
           segmentCount (s.heads.get h).timing t ≤ natAt p.body 2) →
       exec .readTable s = refused) ∧
     (setTables (tableSetOf (byteAt p.body 0)) = [] →
       (Takes .sync p rest s → exec .sync s = refused) ∧ (Takes .commit p rest s → exec .commit s = refused) ∧
       (Takes .cancel p rest s → exec .cancel s = refused)) ∧
     (Takes .setAccept p rest s →
       (1 < natAt p.body 0 ∨ listed = [] ∨ 8 < listed.length ∨ ∃ a ∈ listed, a.toNat < 16 ∨ a = 255#8) →
       exec .setAccept s = refused)) ∧
  (∀ t : Timing,
     (timingInRange t = true ↔
       256 ≤ t.width ∧ t.width ≤ 2048 ∧ t.width % 8 = 0 ∧ 128 ≤ t.height ∧ t.height ≤ 1280 ∧ 4 ≤ t.k ∧ t.k ≤ 7 ∧ 4 ≤ t.b ∧
         t.b ≤ 6 ∧ t.delay ≤ 4095 ∧ 1024 ≤ t.lineStep ∧ t.lineStep ≤ 16384 ∧ 8000 ≤ t.fillPeriod ∧ t.fillPeriod ≤ 50000) ∧
     (timingInRange t = true →
       (meshFits t = true ↔ t.width ≤ 32 * 2 ^ t.k ∧ t.height ≤ 32 * 2 ^ t.k) ∧
       (blendFits t = true ↔ t.width ≤ 64 * 2 ^ t.b ∧ t.height ≤ 64 * 2 ^ t.b))) ∧
  (∀ body : List Byte,
     let field (i : Nat) : Nat := natAt body i * 256 + natAt body (i + 1)
     readTiming body = { width := field 0, height := field 2, k := natAt body 4, b := natAt body 5, delay := field 6
                         lineStep := field 8, fillPeriod := field 10 }) ∧
  ((List.range 256).map tableOf =
     [some .mesh, some .blend, some .decode, some .encode, some .trim] ++ List.replicate 251 none) ∧
  (∀ t : Timing,
     let points (size step : Nat) : Nat := (size + step - 1) / step + 1
     meshCell t = 2 ^ t.k ∧ blendCell t = 2 ^ t.b ∧ meshAcross t = points t.width (2 ^ t.k) ∧ meshDown t = points t.height (2 ^ t.k) ∧
     blendAcross t = points t.width (2 ^ t.b) ∧ blendDown t = points t.height (2 ^ t.b) ∧
     segmentCount t .mesh = 1 + meshDown t ∧ entryCount t .mesh 0 = 1 ∧ (∀ j, entryCount t .mesh (j + 1) = meshAcross t) ∧
     segmentCount t .blend = blendDown t ∧ (∀ n, entryCount t .blend n = blendAcross t) ∧
     segmentCount t .decode = 16 ∧ segmentCount t .encode = 64 ∧ segmentCount t .trim = 1 ∧
     ∀ n, entryCount t .decode n = 64 ∧ entryCount t .encode n = 64 ∧ entryCount t .trim n = 9)

/-! ## Takes: the unit verbs -/

/-- DISCOVER sent to 255: the hop field becomes the hop, or the overflow flag makes the unit unnumbered; the answer carries the
hop after the take and the number of heads in RUN. Sent elsewhere, or with a hop field above 15 and no overflow, it is refused
BAD-ARG (R119, R120). -/
def Obligations.DiscoverNumbersUnit : Prop :=
  ∀ (s : State) (p : Packet) (rest : List Packet), Takes .discover p rest s →
    let hopField := byteAt p.body 0
    let overflow := byteAt p.body 1 ≠ 0#8
    let inRun := (allHeads.filter fun h => (s.heads.get h).state == .run).length
    let s1 := afterTake rest s
    (p.header.target = 0xFF#8 → overflow →
      exec .discover s =
        .next (answerPacket p .done [0xFF#8, byteOf inRun] { s1 with filter := { s.filter with hop := none } })) ∧
    (p.header.target = 0xFF#8 → ¬overflow → hopField.toNat ≤ 15 →
      exec .discover s =
        .next (answerPacket p .done [hopField, byteOf inRun] { s1 with filter := { s.filter with hop := some hopField } })) ∧
    (p.header.target ≠ 0xFF#8 ∨ (¬overflow ∧ 15 < hopField.toNat) →
      exec .discover s = .next (refuseTake .badArg p s1))

/-- SET-ACCEPT with 1 to 8 addresses, each 16..254: ADD leaves the groups held before and the listed ones, REMOVE the groups
held before but the listed ones, in ascending order without repeats; nothing but the groups, the queue and the answers
changes, and more than 32 groups are refused BAD-ARG whole (R121, R122). -/
def Obligations.SetAcceptChangesGroups : Prop :=
  ∀ (s : State) (p : Packet) (rest : List Packet), Takes .setAccept p rest s → AddressesLegal s.filter →
    let listed := (p.body.drop 2).take (natAt p.body 1)
    1 ≤ listed.length → listed.length ≤ 8 → (∀ a ∈ listed, 16 ≤ a.toNat ∧ a.toNat ≤ 254) →
    ∃ groups : List Byte, groups.Pairwise (fun a b => a.toNat < b.toNat) ∧
      (natAt p.body 0 = 0 → ∀ g, g ∈ groups ↔ g ∈ s.filter.groups ∨ g ∈ listed) ∧
      (natAt p.body 0 = 1 → ∀ g, g ∈ groups ↔ g ∈ s.filter.groups ∧ g ∉ listed) ∧
      (natAt p.body 0 ≤ 1 → groups.length ≤ 32 →
        exec .setAccept s =
          .next (answerPacket p .done (s.filter.hop.getD 0xFF#8 :: byteOf groups.length :: groups)
            { afterTake rest s with filter := { s.filter with groups := groups } })) ∧
      (natAt p.body 0 = 0 → 32 < groups.length → exec .setAccept s = .next (refuseTake .badArg p (afterTake rest s)))

/-- SET-LINK stores its timeout clamped into 8..250 and answers it as stored; a running timer is not changed (R7). SET-INTAKE,
SET-GUARD and SET-RETURN: a defined code sets the mode, and the answer carries it (for SET-GUARD, with whether the fault record
is occupied); another code is refused BAD-ARG (R132, R159, R174). -/
def Obligations.SettingVerbsSetTheirValue : Prop :=
  (∀ (s : State) (p : Packet) (rest : List Packet), Takes .setLink p rest s →
     let ms := natAt p.body 0 * 256 + natAt p.body 1
     let stored := if ms < 8 then 8 else if 250 < ms then 250 else ms
     exec .setLink s =
       .next (answerPacket p .done (natBytes2 stored)
         { afterTake rest s with receiver := { s.receiver with timeout := stored } })) ∧
  (∀ (s : State) (p : Packet) (rest : List Packet),
     let code := natAt p.body 0
     let s1 := afterTake rest s
     (Takes .setIntake p rest s →
       (code ≤ 1 → exec .setIntake s =
         .next (answerPacket p .done [byteOf code]
           { s with intake := { s.intake with queue := rest, mode := if code = 0 then .overrun else .overwrite } })) ∧
       (1 < code → exec .setIntake s = .next (refuseTake .badArg p s1))) ∧
     (Takes .setGuard p rest s →
       (code ≤ 1 → exec .setGuard s =
         .next (answerPacket p .done [byteOf code, if s.fault.entry = none then 0#8 else 1#8]
           { s1 with fault := { s.fault with guard := if code = 0 then .strict else .lenient } })) ∧
       (1 < code → exec .setGuard s = .next (refuseTake .badArg p s1))) ∧
     (Takes .setReturn p rest s →
       (code ≤ 2 → exec .setReturn s =
         .next (answerPacket p .done [byteOf code]
           { s1 with answers := { s.answers with
               mode := if code = 0 then .relayFirst else if code = 1 then .ownFirst else .alternate } })) ∧
       (2 < code → exec .setReturn s = .next (refuseTake .badArg p s1))))

/-- CLEAR-FAULT: the items of its mask are cleared, and its answer, generated after the clearing, reports what was held before;
a mask with another bit is refused BAD-ARG (R160, R161). -/
def Obligations.ClearFaultClearsNamedItems : Prop :=
  ∀ (s : State) (p : Packet) (rest : List Packet), Takes .clearFault p rest s →
    let mask := byteAt p.body 0
    let s1 := afterTake rest s
    let block : List Byte := match s.fault.entry with
      | none => List.replicate 11 0#8
      | some e =>
        [1#8, (match e.kind with | .check => 1#8 | .form => 2#8 | .lost => 3#8), if e.complete = true then 1#8 else 0#8,
          e.header.target, e.header.verb, e.header.tag, e.header.flags, byteOf (e.header.length.toNat / 256),
          byteOf e.header.length.toNat, e.frame, byteOf e.overflow]
    (mask.toNat ≤ 15 →
      exec .clearFault s =
        .next (answerPacket p .done
          (block ++ [if s.health.warn = true then 1#8 else 0#8, byteOf s.intake.lost, byteOf s.answers.lost])
          { s1 with
            fault := { s.fault with entry := if mask.getLsbD 0 = true then none else s.fault.entry }
            health := { s.health with warn := if mask.getLsbD 1 = true then false else s.health.warn }
            intake := { s.intake with queue := rest, lost := if mask.getLsbD 2 = true then 0 else s.intake.lost }
            answers := { s.answers with lost := if mask.getLsbD 2 = true then 0 else s.answers.lost }
            heads := .ofFn fun h =>
              if mask.getLsbD 3 = true then { s.heads.get h with missTotal := 0, shortFrames := 0 } else s.heads.get h })) ∧
    (15 < mask.toNat → exec .clearFault s = .next (refuseTake .badArg p s1))

/-- READ-STATUS: where its answer is generated, the 131-byte body of the state at the take goes out and the start-up flag and
every event flag are cleared; where it is not, nothing but the queue changes (R188, R191). The body, byte by byte: the unit part
and a block of 23 bytes for each head (R189, R190, R199), with the shadow states by the first condition of R85. The frame tag byte
of a commit without a frame tag is left free (assumption 24), and a count goes out in the width of its field. That
bits 7..5 of the armed table set and bits 7..3 of the event flags go out as 0 is the model's choice (assumption 25).
The shadow states, the coverage and the jobs that they are judged by, and their codes (R84, R85, R199). -/
def Obligations.ReadStatusReportsAndClearsFlags : Prop :=
  (∀ (s : State) (p : Packet) (rest : List Packet), Takes .readStatus p rest s →
     let s1 := afterTake rest s
     (p.header.flags.getLsbD 7 = true → confinement s ≠ .mute →
       exec .readStatus s =
         .next (answerPacket p .done (statusBody s1)
           { s1 with
             control := { s.control with startUp := false }
             heads := .ofFn fun h =>
               { s.heads.get h with parkedFlag := false, committedFlag := false, fillFlag := false } })) ∧
     (p.header.flags.getLsbD 7 = false ∨ confinement s = .mute → exec .readStatus s = .next s1)) ∧
  (∀ s : State,
     let body := statusBody s
     let byte (i : Nat) : Nat := natAt body i
     let half (i : Nat) : Nat := natAt body i * 256 + natAt body (i + 1)
     let flag (b : Bool) : Nat := if b = true then 1 else 0
     body.length = 131 ∧
     byte 0 = (match s.control.state with | .initializing => 0 | .ready => 1) ∧ byte 1 = flag s.control.startUp ∧
     byteAt body 2 = s.filter.hop.getD 255#8 ∧
     byte 3 = (match s.receiver.state with | .noSignal => 0 | .search => 1 | .locked => 2 | .coasting => 3) ∧
     byteAt body 4 = s.receiver.frame ∧ half 5 = s.receiver.width % 65536 ∧ half 7 = s.receiver.height % 65536 ∧
     half 9 = s.health.errors % 65536 ∧ byte 12 = flag s.health.warn ∧
     byte 11 = (if s.health.errors < 128 then 0 else if s.health.errors ≤ 255 then 1 else 2) ∧
     (s.fault.entry = none → (body.drop 13).take 11 = List.replicate 11 0#8) ∧
     (∀ e, s.fault.entry = some e →
       (body.drop 13).take 11 =
         [1#8, (match e.kind with | .check => 1#8 | .form => 2#8 | .lost => 3#8), if e.complete = true then 1#8 else 0#8,
           e.header.target, e.header.verb, e.header.tag, e.header.flags, byteOf (e.header.length.toNat / 256),
           byteOf e.header.length.toNat, e.frame, byteOf e.overflow]) ∧
     byte 24 = (match s.fault.guard with | .strict => 0 | .lenient => 1) ∧
     byte 25 = s.intake.queue.length % 256 ∧ byte 26 = (if 3 ≤ s.intake.queue.length then 1 else 0) ∧
     byte 27 = (match s.intake.mode with | .overrun => 0 | .overwrite => 1) ∧ byte 28 = s.intake.lost % 256 ∧
     byte 29 = s.answers.own.length % 256 ∧ byte 30 = s.answers.relay.length % 256 ∧ byte 31 = s.answers.lost % 256 ∧
     byte 32 = (match s.answers.mode with | .relayFirst => 0 | .ownFirst => 1 | .alternate => 2) ∧
     (s.loader.lastRefusal = none → (body.drop 33).take 5 = List.replicate 5 0#8) ∧
     (∀ r, s.loader.lastRefusal = some r →
       (body.drop 33).take 5 = [1#8, r.verb, r.tag, outcomeByte r.outcome, r.frame]) ∧
     byte 38 = s.copy.jobs.length % 256 ∧
     ∀ h : HeadId,
       let head := s.heads.get h
       let base := 39 + 23 * headIndex h
       byte base = (match head.state with | .parked => 0 | .priming => 1 | .run => 2 | .fill => 3) ∧
       byte (base + 1) = flag head.stopPending ∧
       (head.armed = none → (body.drop (base + 2)).take 4 = List.replicate 4 0#8) ∧
       (∀ c, head.armed = some c →
         byte (base + 2) = 1 ∧ (∀ t, (byteAt body (base + 3)).getLsbD (tableCode t) = c.tables.get t) ∧ byte (base + 3) < 32 ∧
         byte (base + 4) = flag c.frameTag.isSome ∧ (∀ f, c.frameTag = some f → byteAt body (base + 5) = f)) ∧
       (∀ t : Table,
         let pair := head.pairs.get t
         let armed := ∃ c, head.armed = some c ∧ c.tables.get t = true
         let job := ∃ j ∈ s.copy.jobs, j.head = h ∧ j.table = t
         let full := ∀ seg, seg < pair.shadow.length → seg ∈ pair.coverage
         (armed → byte (base + 6 + 2 * tableCode t) = 4) ∧
         (¬armed → job → byte (base + 6 + 2 * tableCode t) = 2) ∧
         (¬armed → ¬job → full → byte (base + 6 + 2 * tableCode t) = 3) ∧
         (¬armed → ¬job → ¬full → pair.coverage ≠ [] → byte (base + 6 + 2 * tableCode t) = 1) ∧
         (¬armed → ¬job → ¬full → pair.coverage = [] → byte (base + 6 + 2 * tableCode t) = 0) ∧
         byte (base + 7 + 2 * tableCode t) = pair.coverage.length % 256) ∧
       half (base + 16) = head.missLatched % 65536 ∧ half (base + 18) = head.missTotal % 65536 ∧
       half (base + 20) = head.shortFrames % 65536 ∧
       byte (base + 22) = flag head.parkedFlag + 2 * flag head.committedFlag + 4 * flag head.fillFlag) ∧
  (∀ (jobs : List SyncJob) (h : HeadId) (t : Table), hasJob jobs h t = true ↔ ∃ j ∈ jobs, j.head = h ∧ j.table = t) ∧
  (∀ p : Pair, coverageFull p = true ↔ ∀ seg, seg < p.shadow.length → seg ∈ p.coverage) ∧
  (∀ (s : State) (h : HeadId) (t : Table),
     let pair := (s.heads.get h).pairs.get t
     let armed := ∃ c, (s.heads.get h).armed = some c ∧ c.tables.get t = true
     let job := hasJob s.copy.jobs h t = true
     let full := coverageFull pair = true
     (armed → shadowState s h t = .armed) ∧
     (¬armed → job → shadowState s h t = .syncing) ∧
     (¬armed → ¬job → full → shadowState s h t = .ready) ∧
     (¬armed → ¬job → ¬full → pair.coverage ≠ [] → shadowState s h t = .part) ∧
     (¬armed → ¬job → ¬full → pair.coverage = [] → shadowState s h t = .stale)) ∧
  [ShadowState.stale, .part, .syncing, .ready, .armed].map shadowStateCode = [0, 1, 2, 3, 4]

/-! ## Takes: the head verbs and their completions -/

/-- START of parked heads: PRIMING where the receiver is LOCKED, else FILL with its timer started and its flag set; other heads
and the tables, commits and counters are unchanged (R78). -/
def Obligations.StartMovesParkedHeads : Prop :=
  ∀ (s : State) (p : Packet) (rest : List Packet), Takes .start p rest s → packetHeads p ≠ [] →
    (∀ h ∈ packetHeads p, (s.heads.get h).state = .parked) →
    let started (h : HeadId) : Head :=
      if s.receiver.state = .locked then { s.heads.get h with state := .priming, nextLine := 0 }
      else { s.heads.get h with
        state := .fill, nextLine := 0, fillTimer := some (s.heads.get h).timing.fillPeriod, fillFlag := true }
    exec .start s =
      .next (answerPacket p .done
        ((packetHeads p).flatMap fun h => [byteOf (headIndex h), if s.receiver.state = .locked then 1#8 else 3#8])
        { afterTake rest s with
          heads := .ofFn fun h => if (packetMask p).get h = true then started h else s.heads.get h })

/-- STOP by the state of each masked head: none on a parked or already stopping one, stop-pending where lines are owed, parked
at once otherwise; unmasked heads are unchanged and nothing is emitted. Its answers are its own DONE, with the heads parked and the
heads now stopping, and one COMMITTED answer for each head that parks with an untagged commit armed, each generated once; their
order is left open (R79, R81, R166; the model's choices of it are assumptions 18 and 19). That bits 7..4 of the two head masks go
out as 0 is the model's choice too (assumption 25). -/
def Obligations.StopParksOrMarksHeads : Prop :=
  ∀ (s : State) (p : Packet) (rest : List Packet), Takes .stop p rest s → packetHeads p ≠ [] →
    let parks (h : Head) : Prop :=
      h.state = .priming ∨ h.state = .fill ∨ (h.state = .run ∧ h.stopPending = false ∧ h.timing.height ≤ h.nextLine)
    let marks (h : Head) : Prop := h.state = .run ∧ h.stopPending = false ∧ h.nextLine < h.timing.height
    let parked (h : Head) : Head :=
      { h with state := .parked, stopPending := false, fillTimer := none, nextLine := 0, parkedFlag := true
               missLatched := h.missRunning, missRunning := 0 }
    ∃ t, exec .stop s = .next t ∧
      (∀ k, (packetMask p).get k = true → parks (s.heads.get k) →
        (∀ c, (s.heads.get k).armed = some c → c.frameTag = none → t.heads.get k = swapHead c (parked (s.heads.get k))) ∧
        ((∀ c, (s.heads.get k).armed = some c → c.frameTag ≠ none) → t.heads.get k = parked (s.heads.get k))) ∧
      (∀ k, (packetMask p).get k = true → marks (s.heads.get k) →
        t.heads.get k = { s.heads.get k with stopPending := true }) ∧
      (∀ k, (packetMask p).get k = false ∨ (¬parks (s.heads.get k) ∧ ¬marks (s.heads.get k)) →
        t.heads.get k = s.heads.get k) ∧
      { t with heads := s.heads, answers := s.answers, turn := s.turn } = afterTake rest s ∧
      ∃ parkedNow stopping : HeadMask,
        (∀ k, parkedNow.get k = true ↔ (packetMask p).get k = true ∧ parks (s.heads.get k)) ∧
        (∀ k, stopping.get k = true ↔ (packetMask p).get k = true ∧ marks (s.heads.get k)) ∧
        let body (m : HeadMask) : Byte := byteOf
          ((if m.h0 = true then 1 else 0) + (if m.h1 = true then 2 else 0) + (if m.h2 = true then 4 else 0) +
            (if m.h3 = true then 8 else 0))
        let committed (k : HeadId) : List (State → State) := match (s.heads.get k).armed with
          | some c => if parkedNow.get k = true ∧ c.frameTag = none then
              [generate 0x26#8 c.tag c.wanted .committed (some k) []] else []
          | none => []
        ∃ order : List (State → State),
          order.Perm (answerPacket p .done [body parkedNow, body stopping] :: allHeads.flatMap committed) ∧
          t.answers = (order.foldl (fun x answer => answer x) s).answers

/-- SET-TIMING that passes its checks: the head takes its new timing with its line counts and next line at 0, loses its armed
commit, whose wholly current shadows are READY again, and its MESH and BLEND jobs, and a copy in flight for one of those is
discarded; a CANCELLED answer for the commit, then for the MESH job, then for the BLEND job is generated where wanted, and the
loader is busy with generation; the other heads and the other jobs are as before (R76, R77, R85). That every bank and coverage
stays as it was until the generation completion is the model's choice (assumption 10). Generation completion: both MESH banks of
the head hold the identity mesh of its timing and the window, both BLEND banks the unity blend, all current; the other tables
keep theirs, the loader is idle and DONE is generated with the shape (R22, R50, R77). -/
def Obligations.SetTimingInstallsTimingThenGenerates : Prop :=
  (∀ (s : State) (p : Packet) (rest : List Packet) (h : HeadId), Takes .setTiming p rest s → packetHeads p = [h] →
     (s.heads.get h).state = .parked → (s.fault.guard = .lenient ∨ s.fault.entry = none) →
     timingInRange (readTiming p.body) = true → meshFits (readTiming p.body) = true → blendFits (readTiming p.body) = true →
     let withdrawn : State := match (s.heads.get h).armed with
       | some c => generate 0x26#8 c.tag c.wanted .cancelled (some h) [] s
       | none => s
     let cancelJobs (t : Table) (x : State) : State :=
       (s.copy.jobs.filter fun j => j.head == h && j.table == t).foldl
         (fun y j => generate 0x25#8 j.tag j.wanted .cancelled (some h) [byteOf (tableCode t)] y) x
     ∃ t, exec .setTiming s = .next t ∧
       t.heads = s.heads.set h { s.heads.get h with
         timing := readTiming p.body, missRunning := 0, missLatched := 0, nextLine := 0, armed := none } ∧
       t.copy.jobs = s.copy.jobs.filter (fun j => !(j.head == h && (j.table == .mesh || j.table == .blend))) ∧
       (∀ c, s.copy.inFlight = some c → hasJob t.copy.jobs c.head c.table = true → t.copy.inFlight = some c) ∧
       ((∀ c, s.copy.inFlight = some c → hasJob t.copy.jobs c.head c.table = false) →
         t.copy.inFlight = nextCopy s.heads t.copy.jobs) ∧
       t.loader = { s.loader with state := .generating p } ∧
       { t with heads := s.heads, copy := s.copy, loader := s.loader, answers := s.answers } = afterTake rest s ∧
       t.answers = (cancelJobs .blend (cancelJobs .mesh withdrawn)).answers ∧
       (∀ (c : ArmedCommit) (tb : Table), (s.heads.get h).armed = some c → c.tables.get tb = true →
         hasJob s.copy.jobs h tb = false → coverageFull ((s.heads.get h).pairs.get tb) = true →
         shadowState s h tb = .armed ∧ shadowState t h tb = .ready)) ∧
  (∀ (s : State) (p : Packet) (h : HeadId), s.control.resetInput = false → s.loader.state = .generating p →
     packetHeads p = [h] →
     let head := s.heads.get h
     let mesh := identityMesh head.timing (natAt2 p.body 12) (natAt2 p.body 14) (natAt2 p.body 16) (natAt2 p.body 18)
     exec .generationCompletion s =
       .next (answerPacket p .done
         [byteOf (headIndex h), byteOf (meshAcross head.timing), byteOf (meshDown head.timing),
           byteOf (blendAcross head.timing), byteOf (blendDown head.timing)]
         { s with
           heads := s.heads.set h { head with pairs := { head.pairs with
             mesh := { live := mesh, shadow := mesh, coverage := List.range (1 + meshDown head.timing) }
             blend := { live := unityBlend head.timing, shadow := unityBlend head.timing
                        coverage := List.range (blendDown head.timing) } } }
           loader := { s.loader with state := .idle } }))

/-- WRITE-TABLE that passes its checks makes the loader busy with the write and changes nothing else (R86 to R88). Its completion:
the entries, clamped as stored, become the segment of each masked head's shadow and the segment joins the coverage; no live
bank, no other pair and no other head changes; the loader is idle and DONE reports each shadow after the write (R87). The segment
that entries are stored as: each field high byte first, signed ones in two's complement (R193, R196), with every value out of range
clamped: mesh points (R20), the mesh header in its order (R21), trim (R45), blend points, their lifts present by the form (R48,
R49), and encode codes (R56); decode values need none (R43). -/
def Obligations.WriteTableStoresSegmentAtCompletion : Prop :=
  (∀ (s : State) (p : Packet) (rest : List Packet) (t : Table), Takes .writeTable p rest s → packetHeads p ≠ [] →
     tableOf (natAt p.body 0) = some t → (t = .blend → natAt p.body 1 ≤ 1) →
     (∀ h ∈ packetHeads p, natAt p.body 2 < segmentCount (s.heads.get h).timing t ∧
       natAt p.body 3 = entryCount (s.heads.get h).timing t (natAt p.body 2) ∧
       shadowState s h t ≠ .syncing ∧ shadowState s h t ≠ .armed) →
     exec .writeTable s = .next { afterTake rest s with loader := { s.loader with state := .writing p } }) ∧
  (∀ (s : State) (p : Packet) (t : Table), s.control.resetInput = false → s.loader.state = .writing p →
     tableOf (natAt p.body 0) = some t →
     let seg := natAt p.body 2
     let data := readSegment t (natAt p.body 1 == 1) seg (natAt p.body 3) (p.body.drop 4)
     ∃ u, exec .writeCompletion s = .next u ∧
       (∀ h, (packetMask p).get h = true →
         ((u.heads.get h).pairs.get t).shadow = ((s.heads.get h).pairs.get t).shadow.set seg data ∧
         ((u.heads.get h).pairs.get t).live = ((s.heads.get h).pairs.get t).live ∧
         (∀ x, x ∈ ((u.heads.get h).pairs.get t).coverage ↔ x = seg ∨ x ∈ ((s.heads.get h).pairs.get t).coverage) ∧
         (∀ t', t' ≠ t → (u.heads.get h).pairs.get t' = (s.heads.get h).pairs.get t') ∧
         { u.heads.get h with pairs := (s.heads.get h).pairs } = s.heads.get h) ∧
       (∀ h, (packetMask p).get h = false → u.heads.get h = s.heads.get h) ∧
       u.loader = { s.loader with state := .idle } ∧
       { u with heads := s.heads, loader := s.loader, answers := s.answers } = s ∧
       u.answers = (answerPacket p .done
         ([byteOf (tableCode t), byteAt p.body 2] ++ (packetHeads p).flatMap fun h =>
           [byteOf (headIndex h), byteOf (shadowStateCode (shadowState u h t)),
             byteOf ((u.heads.get h).pairs.get t).coverage.length]) s).answers) ∧
  (∀ (lifts : Bool) (seg n : Nat) (bytes : List Byte),
     let field (i : Nat) : Nat := natAt bytes i * 256 + natAt bytes (i + 1)
     let signed2 (i : Nat) : Int := if field i < 32768 then field i else field i - 65536
     let field3 (i : Nat) : Int := natAt bytes i * 65536 + field (i + 1)
     let signed3 (i : Nat) : Int := if field3 i < 8388608 then field3 i else field3 i - 16777216
     let clamp (lo hi x : Int) : Int := max lo (min x hi)
     let ox := min (field 0) 4095
     let oy := min (field 2) 2303
     readSegment .mesh lifts 0 n bytes = .header
       { ox := ox, oy := oy, wx := max 1 (min (field 4) (4096 - ox)), wy := max 1 (min (field 6) (2304 - oy))
         edge := if natAt bytes 8 = 1 then .black else .extend } ∧
     (seg ≠ 0 → readSegment .mesh lifts seg n bytes = .points ((List.range n).map fun i =>
       { sx := clamp (-131072) 131071 (signed3 (7 * i)), sy := clamp (-131072) 131071 (signed3 (7 * i + 3))
         blank := (byteAt bytes (7 * i + 6)).getLsbD 0 })) ∧
     readSegment .blend false seg n bytes =
       .blends ((List.range n).map fun i => { weight := min (field (2 * i)) 4096, lift := none }) ∧
     readSegment .blend true seg n bytes =
       .blends ((List.range n).map fun i =>
         { weight := min (field (4 * i)) 4096, lift := some (min (field (4 * i + 2)) 4095) }) ∧
     readSegment .decode lifts seg n bytes = .values ((List.range n).map fun i => field (2 * i)) ∧
     readSegment .encode lifts seg n bytes = .values ((List.range n).map fun i => min (field (2 * i)) 1023) ∧
     readSegment .trim lifts seg n bytes = .trim
       { gain := ⟨min (field 0) 8191, min (field 2) 8191, min (field 4) 8191⟩
         offset := ⟨clamp (-4096) 4095 (signed2 6), clamp (-4096) 4095 (signed2 8), clamp (-4096) 4095 (signed2 10)⟩
         fill := ⟨min (field 12) 1023, min (field 14) 1023, min (field 16) 1023⟩ })

/-- READ-TABLE of one head: the segment's entries as stored go out with its form, its current mark and the shadow state (FFh
for a live read), and nothing but the queue and the answers changes (R89, R90, R198). The form is 01h for a blend segment with
lifts and 00h for any other; the entry count is 1 for the mesh header, 9 for TRIM, and the number of points or values otherwise. -/
def Obligations.ReadTableReturnsStoredSegment : Prop :=
  (∀ row : List BlendPoint, segmentForm (.blends row) = if ∃ q ∈ row, q.lift ≠ none then 1#8 else 0#8) ∧
  (∀ data : Segment, (∀ row, data ≠ .blends row) → segmentForm data = 0#8) ∧
  ((∀ h, segmentEntries (.header h) = 1) ∧ (∀ row, segmentEntries (.points row) = row.length) ∧
    (∀ row, segmentEntries (.blends row) = row.length) ∧ (∀ entries, segmentEntries (.values entries) = entries.length) ∧
    ∀ x, segmentEntries (.trim x) = 9) ∧
  ∀ (s : State) (p : Packet) (rest : List Packet) (h : HeadId) (t : Table) (data : Segment), Takes .readTable p rest s →
    packetHeads p = [h] → tableOf (natAt p.body 0) = some t →
    natAt p.body 2 < segmentCount (s.heads.get h).timing t →
    let pair := (s.heads.get h).pairs.get t
    let seg := natAt p.body 2
    let body (bank current state : Byte) : List Byte :=
      [byteOf (headIndex h), byteOf (tableCode t), bank, byteOf seg, segmentForm data, current, state,
        byteOf (segmentEntries data)] ++ segmentBytes data
    (natAt p.body 1 = 0 → pair.live[seg]? = some data →
      exec .readTable s = .next (answerPacket p .done (body 0#8 1#8 0xFF#8) (afterTake rest s))) ∧
    (natAt p.body 1 = 1 → pair.shadow[seg]? = some data →
      exec .readTable s =
        .next (answerPacket p .done
          (body 1#8 (if seg ∈ pair.coverage then 1#8 else 0#8) (byteOf (shadowStateCode (shadowState s h t))))
          (afterTake rest s)))

/-- SYNC of pairs that are neither SYNCING nor ARMED: a job for each pair that is not READY, heads ascending and tables in table
order, at the end of the list, each with the SYNC's tag and flag; an idle engine begins a copy for the oldest job (R92, R93).
Nothing but the jobs, the queue and the answers changes. -/
def Obligations.SyncQueuesJobsForUncurrentPairs : Prop :=
  ∀ (s : State) (p : Packet) (rest : List Packet), Takes .sync p rest s → packetHeads p ≠ [] →
    let tableSet := tableSetOf (byteAt p.body 0)
    let named : List (HeadId × Table) := (packetHeads p).flatMap fun h => (setTables tableSet).map fun t => (h, t)
    setTables tableSet ≠ [] → (∀ q ∈ named, shadowState s q.1 q.2 ≠ .syncing ∧ shadowState s q.1 q.2 ≠ .armed) →
    let wanting := named.filter fun q => shadowState s q.1 q.2 != .ready
    let found := named.filter fun q => shadowState s q.1 q.2 == .ready
    let pairs (l : List (HeadId × Table)) : List Byte :=
      byteOf l.length :: l.flatMap fun q => [byteOf (headIndex q.1), byteOf (tableCode q.2)]
    let jobs := s.copy.jobs ++ wanting.map fun q =>
      { head := q.1, table := q.2, tag := p.header.tag, wanted := p.header.flags.getLsbD 7 : SyncJob }
    ∃ t, exec .sync s = .next t ∧ t.copy.jobs = jobs ∧
      (s.copy.inFlight = none → t.copy.inFlight = nextCopy s.heads jobs) ∧
      (∀ c, s.copy.inFlight = some c → hasJob s.copy.jobs c.head c.table = true → t.copy.inFlight = some c) ∧
      { t with copy := s.copy, answers := s.answers } = afterTake rest s ∧
      t.answers = (answerPacket p .done (pairs wanting ++ pairs found) s).answers

/-- A segment copy completion: the live segment is written whole into the shadow and joins the coverage; where the coverage is
then full the pair's job leaves the list and its DONE is generated if wanted; the engine goes on with the oldest job's lowest
missing segment. No live bank changes (R93, R94). The segment an engine begins is the lowest one of the oldest job's pair that is
not current, and there is none without a job (R93). A coverage that a segment joins stays in ascending order (R84). -/
def Obligations.SegmentCopyBringsShadowUpToDate : Prop :=
  (∀ heads : PerHead Head, nextCopy heads [] = none) ∧
  (∀ (seg : Nat) (l : List Nat), (∀ x, x ∈ coverInsert seg l ↔ x = seg ∨ x ∈ l) ∧
     (l.Pairwise (· < ·) → (coverInsert seg l).Pairwise (· < ·))) ∧
  (∀ (heads : PerHead Head) (j : SyncJob) (rest : List SyncJob) (seg : Nat),
     let pair := (heads.get j.head).pairs.get j.table
     (nextCopy heads (j :: rest) = some { head := j.head, table := j.table, segment := seg } ↔
       seg < pair.shadow.length ∧ seg ∉ pair.coverage ∧ ∀ x, x < seg → x ∈ pair.coverage)) ∧
  ∀ (s : State) (c : SegmentCopy) (j : SyncJob) (data : Segment), s.control.resetInput = false →
    s.copy.inFlight = some c → s.copy.jobs.filter (fun x => x.head == c.head && x.table == c.table) = [j] →
    ((s.heads.get c.head).pairs.get c.table).live[c.segment]? = some data →
    let pair := (s.heads.get c.head).pairs.get c.table
    let copied : Pair :=
      { pair with shadow := pair.shadow.set c.segment data, coverage := coverInsert c.segment pair.coverage }
    let full := coverageFull copied
    ∃ t, exec .segmentCopyCompletion s = .next t ∧
      t.heads = s.heads.set c.head
        { s.heads.get c.head with pairs := (s.heads.get c.head).pairs.set c.table copied } ∧
      t.copy.jobs = (if full = true then s.copy.jobs.filter (fun x => !(x.head == c.head && x.table == c.table)) else s.copy.jobs) ∧
      t.copy.inFlight = nextCopy t.heads t.copy.jobs ∧
      { t with heads := s.heads, copy := s.copy, answers := s.answers } = s ∧
      t.answers = (if full = true then
        (generate 0x25#8 j.tag j.wanted .done (some j.head) [byteOf (tableCode j.table)] s).answers else s.answers)

/-- COMMIT that passes its checks arms every masked head; an untagged one swaps at once on a masked head that is parked. Nothing
but the heads, the queue and the answers changes. The ARMED answer comes first, with the reach audit counts, and a COMMITTED
answer for each head that swaps follows (R97, R98, R101), in ascending head index, which is the model's reading (assumption 19).
The reach audit counts the points of the shadow MESH whose needed rows are not all among the 256 lines up to the release line of
their output line (R37 to R39). -/
def Obligations.CommitArmsEveryMaskedHead : Prop :=
  (∀ (s : State) (p : Packet) (rest : List Packet), Takes .commit p rest s → packetHeads p ≠ [] →
     let c : ArmedCommit :=
       { tables := tableSetOf (byteAt p.body 0)
         frameTag := if byteAt p.body 1 = 0#8 then none else some (byteAt p.body 2)
         tag := p.header.tag, wanted := p.header.flags.getLsbD 7 }
     setTables c.tables ≠ [] → (s.fault.guard = .lenient ∨ s.fault.entry = none) →
     (∀ h ∈ packetHeads p, (s.heads.get h).armed = none) →
     (∀ h ∈ packetHeads p, ∀ t, c.tables.get t = true → shadowState s h t = .ready) →
     let swapsNow (h : HeadId) : Prop := c.frameTag = none ∧ (s.heads.get h).state = .parked
     let armed : State := answerPacket p .armed
       ((packetHeads p).flatMap fun h => byteOf (headIndex h) ::
         natBytes2 (if c.tables.mesh = true then reachAudit (s.heads.get h).timing (s.heads.get h).pairs.mesh.shadow
           else 0xFFFF)) s
     ∃ t, exec .commit s = .next t ∧
       (∀ h, (packetMask p).get h = true → ¬swapsNow h → t.heads.get h = { s.heads.get h with armed := some c }) ∧
       (∀ h, (packetMask p).get h = true → swapsNow h → t.heads.get h = swapHead c { s.heads.get h with armed := some c }) ∧
       (∀ h, (packetMask p).get h = false → t.heads.get h = s.heads.get h) ∧
       { t with heads := s.heads, answers := s.answers } = afterTake rest s ∧
       t.answers = ((packetHeads p).foldl
         (fun x h => if c.frameTag = none ∧ (s.heads.get h).state = .parked then
           generate 0x26#8 c.tag c.wanted .committed (some h) [] x else x) armed).answers) ∧
  (∀ (t : Timing) (bank : Bank),
     let outside (i j : Nat) : Prop :=
       let v := min (j * 2 ^ t.k) (t.height - 1)
       let r : Int := t.delay + (v * t.lineStep / 4096 : Nat)
       let sy := (bankPoint bank i j).sy
       sy / 16 < r - 255 ∨ r < sy / 16 ∨ (sy / 16 = r ∧ sy % 16 ≠ 0)
     (∀ i j, outOfReach t bank i j = true ↔ outside i j) ∧
     reachAudit t bank =
       ((List.range (meshDown t)).flatMap fun j => (List.range (meshAcross t)).map fun i => (i, j)).countP
         fun q => outOfReach t bank q.1 q.2)

/-- CANCEL with a table set that is not empty: each masked head whose armed commit shares a table loses it whole, the jobs of the
listed pairs leave the list, and a copy in flight for one of them is discarded; no bank and no coverage changes. Where wanted,
each withdrawn commit and each removed job gets its CANCELLED answer: heads ascending, the commit first, then the jobs in table
order. CANCEL's own answer comes after all of these, CANCELLED where it withdrew or removed anything and DONE otherwise, with the
heads withdrawn and the pairs removed (R104, R105). That bits 7..4 of the mask of the heads withdrawn go out as 0 is the model's
choice (assumption 25). -/
def Obligations.CancelWithdrawsCommitsAndJobs : Prop :=
  ∀ (s : State) (p : Packet) (rest : List Packet), Takes .cancel p rest s → packetHeads p ≠ [] →
    let tableSet := tableSetOf (byteAt p.body 0)
    setTables tableSet ≠ [] →
    let shares (h : HeadId) : Prop :=
      (packetMask p).get h = true ∧ ∃ c t, (s.heads.get h).armed = some c ∧ c.tables.get t = true ∧ tableSet.get t = true
    let cancelled (x : State) (h : HeadId) : State :=
      let y := match (s.heads.get h).armed with
        | some c => if allTables.any (fun t => c.tables.get t && tableSet.get t) = true then
            generate 0x26#8 c.tag c.wanted .cancelled (some h) [] x else x
        | none => x
      (setTables tableSet).foldl (fun z t => (s.copy.jobs.filter fun j => j.head == h && j.table == t).foldl
        (fun w j => generate 0x25#8 j.tag j.wanted .cancelled (some h) [byteOf (tableCode t)] w) z) y
    let removed : List (HeadId × Table) :=
      ((packetHeads p).flatMap fun h => (setTables tableSet).map fun t => (h, t)).filter fun q => hasJob s.copy.jobs q.1 q.2
    ∃ t, exec .cancel s = .next t ∧
      (∀ h, shares h → t.heads.get h = { s.heads.get h with armed := none }) ∧
      (∀ h, ¬shares h → t.heads.get h = s.heads.get h) ∧
      t.copy.jobs = s.copy.jobs.filter (fun j => !((packetMask p).get j.head && tableSet.get j.table)) ∧
      (∀ c, s.copy.inFlight = some c →
        t.copy.inFlight = if hasJob t.copy.jobs c.head c.table = true then some c else nextCopy t.heads t.copy.jobs) ∧
      { t with heads := s.heads, copy := s.copy, answers := s.answers } = afterTake rest s ∧
      ∃ withdrawn : HeadMask, (∀ h, withdrawn.get h = true ↔ shares h) ∧
        t.answers = (answerPacket p
          (if withdrawn = ⟨false, false, false, false⟩ ∧ removed = [] then .done else .cancelled)
          (byteOf ((if withdrawn.h0 = true then 1 else 0) + (if withdrawn.h1 = true then 2 else 0) +
            (if withdrawn.h2 = true then 4 else 0) + (if withdrawn.h3 = true then 8 else 0)) :: byteOf removed.length ::
            removed.flatMap fun q => [byteOf (headIndex q.1), byteOf (tableCode q.2)])
          ((packetHeads p).foldl cancelled s)).answers

/-- A live bank changes only by a swap, apart from power-on reset, initialization and generation: any other command leaves it,
or leaves it holding what the shadow held, with the old live bank in the shadow, an empty coverage, and the commit consumed
(R83, R100). -/
def Obligations.LiveBanksChangeOnlyBySwap : Prop :=
  ∀ (c : Instr) (s t : State) (h : HeadId) (tb : Table), exec c s = .next t → (∀ b, c ≠ .powerOnReset b) →
    c ≠ .initializationCompletion → c ≠ .generationCompletion →
    let before := (s.heads.get h).pairs.get tb
    let after := (t.heads.get h).pairs.get tb
    after.live = before.live ∨
      (after = { live := before.shadow, shadow := before.live, coverage := [] } ∧ (t.heads.get h).armed = none ∧
        (t.heads.get h).committedFlag = true)

/-! ## Invariants -/

/-- Every store keeps within its size, every saturating count within its top, the health monitor's counts stay legal with the
re-arm flag armed exactly while E is below 96, and the acceptance map stays within its law, at every step (R114, R117, R125,
R129, R148, R149, R152 to R154, R167, R168, R170). -/
def Obligations.CountsAndAddressesStayLegal : Prop :=
  (∀ s t : State, StoresBounded s → step s = .next t → StoresBounded t) ∧
  (∀ s t : State, HealthLegal s.health → step s = .next t → HealthLegal t.health) ∧
  (∀ s t : State, AddressesLegal s.filter → step s = .next t → AddressesLegal t.filter)

/-- The receiver stays legal and the ring holds exactly the last lines of the current frame, at every step (R1, R2, R3, R6, R7,
R11, R12). -/
def Obligations.RingHoldsCurrentFrameAlways : Prop :=
  ∀ s t : State, ReceiverLegal s.receiver ∧ RingHoldsFrame s → step s = .next t →
    ReceiverLegal t.receiver ∧ RingHoldsFrame t

/-- Every head stays legal, and is in RUN only while the receiver is LOCKED or COASTING, at every step (R60, R66, R67, R79,
R80). The running and latched reach-miss line counts of a head never exceed its H_out, nor a running head's running count the
lines it has released (R35, R36). -/
def Obligations.HeadsStayLegalAndFollowLink : Prop :=
  (∀ s t : State, (∀ h, HeadLegal (s.heads.get h)) ∧ RunFollowsLink s → step s = .next t →
    (∀ h, HeadLegal (t.heads.get h)) ∧ RunFollowsLink t) ∧
  (∀ s t : State, (∀ h, HeadLegal (s.heads.get h) ∧ MissCountsBounded (s.heads.get h)) → step s = .next t →
    ∀ h, MissCountsBounded (t.heads.get h))

/-- An ARMED shadow stays wholly current and without a job, jobs stay one per pair, and the unit stays quiet while
INITIALIZING, at every step (R85, R91, R180, R182). -/
def Obligations.ArmedShadowsStayWhollyCurrent : Prop :=
  ∀ s t : State, CommitsSound s ∧ QuietWhileInitializing s → step s = .next t → CommitsSound t ∧ QuietWhileInitializing t

/-- The copy engine works the oldest job on its lowest segment that is not current, and is idle exactly while the list is empty;
every bank has the shape of its head's timing, with a coverage of segments of that shape, outside the writing of banks by
initialization and generation; and the loader's verb in execution stays one whose completion keeps this, at every step (R43, R49,
R82 to R84, R91, R93, R133). -/
def Obligations.CopyEngineAndBankShapesStaySound : Prop :=
  ∀ s t : State, CommitsSound s ∧ QuietWhileInitializing s ∧ LoaderSound s ∧ CopySound s ∧ BanksShaped s → step s = .next t →
    LoaderSound t ∧ CopySound t ∧ BanksShaped t

/-- The carrier that the thru port presents to the next unit is the carrier of the source link as the receiver has it, at every step
(R2, R16; that a power-on reset withdraws it is the model's reading, assumption 23). -/
def Obligations.PresentedCarrierFollowsSourceCarrier : Prop :=
  ∀ s t : State, CarrierPresented s → step s = .next t → CarrierPresented t

/-- Every table entry stays in its range and every code that leaves a head port lies in 0..1023, at every step (R20, R21, R43,
R45, R48, R56). -/
def Obligations.EmittedCodesStayInRange : Prop :=
  ∀ s t : State, (∀ h, HeadLegal (s.heads.get h)) ∧ TablesLegal s ∧ CodesLegal s → step s = .next t →
    TablesLegal t ∧ CodesLegal t

/-- Every invariant holds right after reset. -/
def Obligations.ResetMeetsEveryInvariant : Prop :=
  StoresBounded State.reset ∧ HealthLegal State.reset.health ∧ ReceiverLegal State.reset.receiver ∧
    RingHoldsFrame State.reset ∧ AddressesLegal State.reset.filter ∧ (∀ h, HeadLegal (State.reset.heads.get h)) ∧
    (∀ h, MissCountsBounded (State.reset.heads.get h)) ∧ RunFollowsLink State.reset ∧
    CommitsSound State.reset ∧ QuietWhileInitializing State.reset ∧ TablesLegal State.reset ∧
    CodesLegal State.reset ∧ LoaderSound State.reset ∧ CopySound State.reset ∧ BanksShaped State.reset ∧
    CarrierPresented State.reset
end

