-- ==== Sys2Proof/Laws/State.lean ====
section
/-! SUPPORT. What each named update of the state leaves in each field: reading heads and tables after a write, and one lemma per
field for the operations that write answers, records, queues and heads. -/

namespace Sys2Proof.Laws

open Sys2Proof.Machine

/-! ## One value per head, one value per table -/

@[simp] theorem perHead_get_ofFn {α : Type} (f : HeadId → α) (h : HeadId) : (PerHead.ofFn f).get h = f h := by
  cases h <;> rfl

@[simp] theorem perHead_ofFn_get {α : Type} (x : PerHead α) : PerHead.ofFn x.get = x := rfl

theorem perHead_ext {α : Type} {x y : PerHead α} (h : ∀ k, x.get k = y.get k) : x = y := by
  have e0 := h .h0
  have e1 := h .h1
  have e2 := h .h2
  have e3 := h .h3
  cases x
  cases y
  simp_all [PerHead.get]

theorem perHead_get_set {α : Type} (x : PerHead α) (h k : HeadId) (a : α) :
    (x.set h a).get k = if k = h then a else x.get k := by simp [PerHead.set]

@[simp] theorem perHead_get_set_same {α : Type} (x : PerHead α) (h : HeadId) (a : α) : (x.set h a).get h = a := by
  simp [PerHead.set]

@[simp] theorem perHead_get_set_other {α : Type} (x : PerHead α) {h k : HeadId} (a : α) (n : k ≠ h) :
    (x.set h a).get k = x.get k := by simp [PerHead.set, n]

@[simp] theorem perHead_get_mapHeads {α β : Type} (f : HeadId → α → β) (x : PerHead α) (h : HeadId) :
    (x.mapHeads f).get h = f h (x.get h) := by simp [PerHead.mapHeads]

@[simp] theorem perTable_get_ofFn {α : Type} (f : Table → α) (t : Table) : (PerTable.ofFn f).get t = f t := by
  cases t <;> rfl

@[simp] theorem perTable_ofFn_get {α : Type} (x : PerTable α) : PerTable.ofFn x.get = x := rfl

theorem perTable_get_set {α : Type} (x : PerTable α) (t u : Table) (a : α) :
    (x.set t a).get u = if u = t then a else x.get u := by simp [PerTable.set]

@[simp] theorem perTable_get_set_same {α : Type} (x : PerTable α) (t : Table) (a : α) : (x.set t a).get t = a := by
  simp [PerTable.set]

@[simp] theorem perTable_get_set_other {α : Type} (x : PerTable α) {t u : Table} (a : α) (n : u ≠ t) :
    (x.set t a).get u = x.get u := by simp [PerTable.set, n]

@[simp] theorem mem_allHeads (h : HeadId) : h ∈ allHeads := by cases h <;> decide

@[simp] theorem mem_allTables (t : Table) : t ∈ allTables := by cases t <;> decide

@[simp] theorem mem_maskHeads (m : HeadMask) (h : HeadId) : h ∈ maskHeads m ↔ m.get h = true := by simp [maskHeads]

@[simp] theorem mem_setTables (ts : TableSet) (t : Table) : t ∈ setTables ts ↔ ts.get t = true := by simp [setTables]

@[simp] theorem mem_packetHeads (p : Packet) (h : HeadId) : h ∈ packetHeads p ↔ (packetMask p).get h = true := by
  simp [packetHeads]

/-! ## Answers: only the answer side changes -/

/-- All that generating an answer does. -/
theorem generate_eq (v t : Byte) (w : Bool) (o : OutcomeCode) (h : Option HeadId) (b : List Byte) (s : State) :
    generate v t w o h b s =
      { s with answers := if w = true ∧ answerAllowed (confinement s) v = true
                          then queueAnswer (makeAnswer s.filter.hop v t o h b) s.answers else s.answers } := by
  unfold generate
  by_cases c : w = true ∧ answerAllowed (confinement s) v = true
  · simp [c.1, c.2]
  · simp only [Bool.and_eq_true, if_neg c]

variable (v t : Byte) (w : Bool) (o : OutcomeCode) (h : Option HeadId) (b : List Byte) (s : State)

@[simp] theorem generate_receiver : (generate v t w o h b s).receiver = s.receiver := by rw [generate_eq]
@[simp] theorem generate_ring : (generate v t w o h b s).ring = s.ring := by rw [generate_eq]
@[simp] theorem generate_filter : (generate v t w o h b s).filter = s.filter := by rw [generate_eq]
@[simp] theorem generate_health : (generate v t w o h b s).health = s.health := by rw [generate_eq]
@[simp] theorem generate_fault : (generate v t w o h b s).fault = s.fault := by rw [generate_eq]
@[simp] theorem generate_intake : (generate v t w o h b s).intake = s.intake := by rw [generate_eq]
@[simp] theorem generate_loader : (generate v t w o h b s).loader = s.loader := by rw [generate_eq]
@[simp] theorem generate_heads : (generate v t w o h b s).heads = s.heads := by rw [generate_eq]
@[simp] theorem generate_copy : (generate v t w o h b s).copy = s.copy := by rw [generate_eq]
@[simp] theorem generate_control : (generate v t w o h b s).control = s.control := by rw [generate_eq]
@[simp] theorem generate_outputs : (generate v t w o h b s).outputs = s.outputs := by rw [generate_eq]
@[simp] theorem generate_turn : (generate v t w o h b s).turn = s.turn := by rw [generate_eq]
@[simp] theorem generate_pending : (generate v t w o h b s).pending = s.pending := by rw [generate_eq]

/-- All that a refused take does. -/
theorem refuseTake_eq (o : OutcomeCode) (p : Packet) (s : State) :
    refuseTake o p s =
      { s with
        loader := { s.loader with
          lastRefusal := some { verb := p.header.verb, tag := p.header.tag, outcome := o, frame := s.receiver.frame } }
        answers := (answerPacket p o [] s).answers } := by
  simp only [refuseTake, answerPacket, generate_eq]
  rfl

/-- All that a swap event's answers do: one after another, each joins the answer side. -/
theorem answerSwaps_eq (order : List HeadId) (runs : PerHead HeadRun) (s : State) :
    answerSwaps order runs s = { s with answers := (answerSwaps order runs s).answers } := by
  induction order generalizing s with
  | nil => rfl
  | cons k ks ih =>
    simp only [answerSwaps, List.foldl_cons] at ih ⊢
    rw [ih]
    cases (runs.get k).swapped with
    | none => rfl
    | some c => simp only [answerCommitted, generate_eq]

/-- All that an event handed to the heads does, its answers apart. -/
theorem handToHeads_eq (f : Head → HeadRun) (s : State) :
    handToHeads f s =
      { s with
        heads := .ofFn fun k => (f (s.heads.get k)).head
        outputs := { s.outputs with ports := .ofFn fun k => s.outputs.ports.get k ++ (f (s.heads.get k)).emitted }
        turn := s.turn + 1
        answers := (handToHeads f s).answers } := by
  conv => lhs; unfold handToHeads
  rw [answerSwaps_eq]
  simp [applyRuns, handToHeads]

/-- All that an event of the heads a verb names does, its answers apart. -/
theorem runHeads_eq (f : HeadId → Head → HeadRun) (s : State) :
    runHeads f s =
      { s with
        heads := .ofFn fun k => (f k (s.heads.get k)).head
        outputs := { s.outputs with ports := .ofFn fun k => s.outputs.ports.get k ++ (f k (s.heads.get k)).emitted }
        answers := (runHeads f s).answers } := by
  conv => lhs; unfold runHeads
  rw [answerSwaps_eq]
  simp [applyRuns, runHeads]

end Sys2Proof.Laws
end

