-- ==== Sys2Proof/Laws/Ops.lean ====
section
/-! SUPPORT. What each shared operation of Machine/Ops.lean and Machine/Sequencer.lean can do, said once: answers, swaps, sync jobs,
the copy engine, coverage, the thru port, and events handed to heads. -/

namespace Sys2Proof.Laws

open Sys2Proof.Machine

/-! ## Answers -/

/-- All that the answer to a packet does. -/
theorem answerPacket_eq (p : Packet) (o : OutcomeCode) (b : List Byte) (s : State) :
    answerPacket p o b s = { s with answers := (answerPacket p o b s).answers } := by
  simp only [answerPacket]
  rw [generate_eq]

/-- The answers after an answer to a packet depend on the answer side, the hop and the confinement state alone. -/
theorem answerPacket_answers_congr (p : Packet) (o : OutcomeCode) (b : List Byte) {s s' : State} (a : s.answers = s'.answers)
    (h : s.health = s'.health) (f : s.filter = s'.filter) :
    (answerPacket p o b s).answers = (answerPacket p o b s').answers := by
  simp only [answerPacket, generate_eq, confinement, a, h, f]
  rfl

/-- Generating an answer leaves the partner's hold-back as it is (R171). -/
@[simp] theorem generate_heldBack (verb tag : Byte) (wanted : Bool) (o : OutcomeCode) (head : Option HeadId) (body : List Byte)
    (s : State) : (generate verb tag wanted o head body s).answers.heldBack = s.answers.heldBack := by
  unfold generate queueAnswer
  split
  · split <;> rfl
  · rfl

/-- A fold of operations that change answers alone changes answers alone. -/
theorem foldl_answers_eq {α : Type} (l : List α) (f : State → α → State)
    (hf : ∀ s a, f s a = { s with answers := (f s a).answers }) (s : State) :
    l.foldl f s = { s with answers := (l.foldl f s).answers } := by
  induction l generalizing s with
  | nil => rfl
  | cons a l ih => rw [List.foldl_cons, ih, hf]

/-- The answers of an event in which no head swaps. -/
theorem answerSwaps_of_none (order : List HeadId) (runs : PerHead HeadRun) (s : State)
    (h : ∀ k, (runs.get k).swapped = none) : answerSwaps order runs s = s := by
  induction order generalizing s with
  | nil => rfl
  | cons k ks ih =>
    simp only [answerSwaps, List.foldl_cons, h] at ih ⊢
    exact ih s

/-- Every order of the heads that the free value can choose holds each head once. -/
theorem headOrder_perm (n : Nat) : (headOrder n).Perm allHeads := by
  have all : ∀ a < 2, ∀ b < 3, ∀ c < 4,
      ((([HeadId.h0].insertIdx a .h1).insertIdx b .h2).insertIdx c HeadId.h3).Perm allHeads := by decide
  exact all _ (Nat.mod_lt _ (by omega)) _ (Nat.mod_lt _ (by omega)) _ (Nat.mod_lt _ (by omega))

theorem handToHeads_answers_of_none (f : Head → HeadRun) (s : State) (h : ∀ k, (f (s.heads.get k)).swapped = none) :
    (handToHeads f s).answers = s.answers := by
  show (answerSwaps _ _ _).answers = _
  rw [answerSwaps_of_none _ _ _ (by simpa using h)]
  rfl

theorem runHeads_answers_of_none (f : HeadId → Head → HeadRun) (s : State)
    (h : ∀ k, (f k (s.heads.get k)).swapped = none) : (runHeads f s).answers = s.answers := by
  show (answerSwaps _ _ _).answers = _
  rw [answerSwaps_of_none _ _ _ (by simpa using h)]
  rfl

/-! ## Swaps -/

/-- Everything a possible swap can do: nothing, or the swap of the head's due commit. -/
theorem swapWhen_cases (due : ArmedCommit → Bool) (r : HeadRun) :
    (swapWhen due r = r ∧ ∀ c, r.head.armed = some c → due c = false) ∨
      ∃ c, r.head.armed = some c ∧ due c = true ∧
        swapWhen due r = { r with head := swapHead c r.head, swapped := some c } := by
  unfold swapWhen
  split
  · rename_i c e
    split
    · rename_i d
      exact .inr ⟨c, e, d, rfl⟩
    · rename_i d
      refine .inl ⟨rfl, fun c' e' => ?_⟩
      cases e.symm.trans e'
      simpa using d
  · rename_i e
    exact .inl ⟨rfl, fun c e' => by simp [e] at e'⟩

@[simp] theorem swapWhen_emitted (due : ArmedCommit → Bool) (r : HeadRun) : (swapWhen due r).emitted = r.emitted := by
  rcases swapWhen_cases due r with ⟨e, _⟩ | ⟨_, _, _, e⟩ <;> rw [e]

@[simp] theorem swapHead_timing (c : ArmedCommit) (h : Head) : (swapHead c h).timing = h.timing := rfl
@[simp] theorem swapHead_state (c : ArmedCommit) (h : Head) : (swapHead c h).state = h.state := rfl
@[simp] theorem swapHead_stopPending (c : ArmedCommit) (h : Head) : (swapHead c h).stopPending = h.stopPending := rfl
@[simp] theorem swapHead_nextLine (c : ArmedCommit) (h : Head) : (swapHead c h).nextLine = h.nextLine := rfl
@[simp] theorem swapHead_fillTimer (c : ArmedCommit) (h : Head) : (swapHead c h).fillTimer = h.fillTimer := rfl
@[simp] theorem swapHead_missTotal (c : ArmedCommit) (h : Head) : (swapHead c h).missTotal = h.missTotal := rfl
@[simp] theorem swapHead_shortFrames (c : ArmedCommit) (h : Head) : (swapHead c h).shortFrames = h.shortFrames := rfl

/-- The pair of one table after a swap. -/
@[simp] theorem swapHead_pair (c : ArmedCommit) (h : Head) (t : Table) :
    (swapHead c h).pairs.get t = if c.tables.get t then swapPair (h.pairs.get t) else h.pairs.get t := by
  simp [swapHead]

/-! ## Withdrawing commits and jobs -/

/-- All that a withdrawal does, its answer apart: the head has no armed commit. -/
theorem withdraw_eq (h : HeadId) (s : State) :
    withdraw h s =
      { s with heads := s.heads.set h { s.heads.get h with armed := none }, answers := (withdraw h s).answers } := by
  unfold withdraw
  split
  · simp only [answerWithdrawn]
    rw [generate_eq]
  · rename_i e
    have same : s.heads.set h { s.heads.get h with armed := none } = s.heads := by
      refine perHead_ext fun k => ?_
      rw [perHead_get_set]
      split
      · rename_i q
        subst q
        cases hh : s.heads.get k
        simp_all
      · rfl
    rw [same]

/-- All that removing a pair's jobs does, its answers apart. -/
theorem removeJob_eq (h : HeadId) (s : State) (t : Table) :
    removeJob h s t =
      { s with copy := { s.copy with jobs := withoutJob s.copy.jobs h t }, answers := (removeJob h s t).answers } := by
  conv => lhs; unfold removeJob
  rw [foldl_answers_eq _ _ (by intro s a; simp only [answerJob]; rw [generate_eq])]
  rfl

/-- All that resuming the copy engine does. -/
theorem resumeCopy_eq (s : State) :
    resumeCopy s = { s with copy := { s.copy with inFlight := (resumeCopy s).copy.inFlight } } := by
  unfold resumeCopy
  split
  · split <;> rfl
  · rfl

theorem mem_withoutJob (jobs : List SyncJob) (h : HeadId) (t : Table) (j : SyncJob) :
    j ∈ withoutJob jobs h t ↔ j ∈ jobs ∧ ¬(j.head = h ∧ j.table = t) := by
  simp [withoutJob, imp_iff_not_or]

theorem mem_jobsOf (jobs : List SyncJob) (h : HeadId) (t : Table) (j : SyncJob) :
    j ∈ jobsOf jobs h t ↔ j ∈ jobs ∧ j.head = h ∧ j.table = t := by simp [jobsOf]

theorem hasJob_eq_true (jobs : List SyncJob) (h : HeadId) (t : Table) :
    hasJob jobs h t = true ↔ ∃ j ∈ jobs, j.head = h ∧ j.table = t := by simp [hasJob]

/-- The segment the copy engine begins: the lowest one of the oldest job's pair that is not current. -/
theorem nextCopy_eq_some {heads : PerHead Head} {jobs : List SyncJob} {c : SegmentCopy} (e : nextCopy heads jobs = some c) :
    ∃ j rest, jobs = j :: rest ∧ c.head = j.head ∧ c.table = j.table ∧
      lowestMissing ((heads.get j.head).pairs.get j.table) = some c.segment := by
  cases jobs with
  | nil => simp [nextCopy] at e
  | cons j rest =>
    simp only [nextCopy, List.head?_cons, Option.map_eq_some_iff] at e
    obtain ⟨seg, low, rfl⟩ := e
    exact ⟨j, rest, rfl, rfl, rfl, low⟩

/-! ## Coverage -/

@[simp] theorem mem_coverInsert (seg x : Nat) (l : List Nat) : x ∈ coverInsert seg l ↔ x = seg ∨ x ∈ l := by
  induction l with
  | nil => simp [coverInsert]
  | cons y ys ih =>
    unfold coverInsert
    split
    · simp
    · split
      · rename_i e
        subst e
        simp
      · simp only [List.mem_cons, ih]
        tauto

theorem coverageFull_eq_true (p : Pair) : coverageFull p = true ↔ ∀ seg, seg < p.shadow.length → seg ∈ p.coverage := by
  simp [coverageFull]

/-- Storing a segment never takes a segment out of the coverage. -/
theorem coverageFull_storeSegment {p : Pair} (seg : Nat) (data : Segment) (full : coverageFull p = true) :
    coverageFull (storeSegment seg data p) = true := by
  rw [coverageFull_eq_true] at full ⊢
  intro x lt
  simp only [storeSegment, List.length_set] at lt
  simp [storeSegment, full x lt]

/-- The lowest segment that is not current: within the bank's shape, and every lower one current. -/
theorem lowestMissing_eq_some {p : Pair} {seg : Nat} (e : lowestMissing p = some seg) :
    seg < p.shadow.length ∧ seg ∉ p.coverage ∧ ∀ x, x < seg → x ∈ p.coverage := by
  unfold lowestMissing at e
  rw [List.find?_range_eq_some] at e
  simpa using And.intro e.2.1 (And.intro e.1 e.2.2)

/-! ## The thru port -/

theorem presentedCarrier_append_carrier (thru : List ThruItem) (up : Bool) :
    presentedCarrier (thru ++ [.carrier up]) = up := by simp [presentedCarrier]

/-- An item of the stream leaves the presented carrier as it is. -/
theorem presentedCarrier_append_item (thru : List ThruItem) {x : ThruItem} (h : ∀ up, x ≠ .carrier up) :
    presentedCarrier (thru ++ [x]) = presentedCarrier thru := by
  cases x <;> simp_all [presentedCarrier]

@[simp] theorem presentedCarrier_withdrawLink (broken : Option ItemPart) (o : Outputs) :
    presentedCarrier (withdrawLink broken o).thru = false := presentedCarrier_append_carrier _ _

@[simp] theorem withdrawLink_ports (broken : Option ItemPart) (o : Outputs) : (withdrawLink broken o).ports = o.ports := rfl
@[simp] theorem withdrawLink_returned (broken : Option ItemPart) (o : Outputs) :
    (withdrawLink broken o).returned = o.returned := rfl

/-! ## The intake queue -/

/-- All that a packet's arrival at the intake queue does: the intake and the fault record alone change. -/
theorem queuePacket_eq (p : Packet) (s : State) :
    queuePacket p s = { s with intake := (queuePacket p s).intake, fault := (queuePacket p s).fault } := by
  unfold queuePacket
  split
  · rfl
  · split
    · rfl
    · split <;> rfl

theorem queuePacket_length (p : Packet) (s : State) (h : s.intake.queue.length ≤ 4) :
    (queuePacket p s).intake.queue.length ≤ 4 := by
  unfold queuePacket
  split
  · simp
    omega
  · split
    · exact h
    · split
      · rename_i oldest rest e
        simp only [e, List.length_cons] at h
        simp [loseInIntake]
        omega
      · exact h

/-! ## Entries, mesh and lines -/

/-- A byte of an entry is the byte of the body at the entry's place. -/
theorem byteAt_entryBytes (bytes : List Byte) {size j : Nat} (i : Nat) (h : j < size) :
    byteAt (entryBytes bytes size i) j = byteAt bytes (i * size + j) := by
  simp [byteAt, entryBytes, List.getD, List.getElem?_drop, h]

/-- The bilinear mean of corners whose weighted sum is a whole multiple of the cell is that multiple, without rounding. -/
theorem bilinear_of_exact {c fx fy : Nat} {v00 v10 v01 v11 w : Int} (hc : 0 < c)
    (h : (c - fx : Int) * (c - fy) * v00 + (fx : Int) * (c - fy) * v10 + (c - fx : Int) * fy * v01 + (fx : Int) * fy * v11 =
      c * c * w) :
    bilinear c fx fy v00 v10 v01 v11 = w := by
  have hp : (0 : Int) < (c : Int) * c := by positivity
  have half : (c : Int) * c / 2 / (c * c) = 0 := Int.ediv_eq_zero_of_lt (by positivity) (by omega)
  rw [bilinear, h, Int.add_comm, mul_comm _ w, Int.add_mul_ediv_right _ _ (ne_of_gt hp), half, zero_add]

/-- The lines formed at once add to the running reach-miss line count at most one each (R35). -/
theorem formLines_missRunning_le (view : View) (ys : List Nat) (r : HeadRun) :
    (formLines view ys r).head.missRunning ≤ r.head.missRunning + ys.length := by
  have h := List.countP_le_length (p := fun f : List Pixel × Bool => f.2) (l := ys.map (formLine view r.head))
  simpa [formLines] using h

end Sys2Proof.Laws
end

