-- ==== Sys2Proof/Laws/Banks.lean ====
section
/-! SUPPORT. The shapes of banks: what a default, a generation, a write and a swap store has the shape of its timing. -/

namespace Sys2Proof.Laws

open Sys2Proof.Machine Sys2Proof.Safety

theorem identityMesh_shaped (t : Timing) (ox oy wx wy : Nat) : bankShaped t .mesh (identityMesh t ox oy wx wy) := by
  refine ⟨by simp [identityMesh, segmentCount, Nat.add_comm], fun i x e => ?_⟩
  cases i with
  | zero =>
    simp only [identityMesh, List.getElem?_cons_zero, Option.some.injEq] at e
    subst e
    exact ⟨rfl, rfl⟩
  | succ i =>
    simp only [identityMesh, List.getElem?_cons_succ, List.getElem?_map, Option.map_eq_some_iff] at e
    obtain ⟨j, -, rfl⟩ := e
    simp [segmentShaped, entryCount]

theorem unityBlend_shaped (t : Timing) : bankShaped t .blend (unityBlend t) := by
  refine ⟨by simp [unityBlend, segmentCount], fun i x e => ?_⟩
  simp only [unityBlend, List.getElem?_map, Option.map_eq_some_iff] at e
  obtain ⟨j, -, rfl⟩ := e
  simp [segmentShaped, entryCount]

/-- The default contents of every bank have the shape of the head's default timing. -/
theorem defaultBank_shaped (h : HeadId) (table : Table) : bankShaped (defaultTiming h) table (defaultBank h table) := by
  cases table with
  | mesh => exact identityMesh_shaped _ _ _ _ _
  | blend => exact unityBlend_shaped _
  | decode =>
    refine ⟨by simp [defaultBank, defaultDecode, segmentCount], fun i x e => ?_⟩
    simp only [defaultBank, defaultDecode, List.getElem?_map, Option.map_eq_some_iff] at e
    obtain ⟨j, -, rfl⟩ := e
    simp [segmentShaped, entryCount]
  | encode =>
    refine ⟨by simp [defaultBank, defaultEncode, segmentCount], fun i x e => ?_⟩
    simp only [defaultBank, defaultEncode, List.getElem?_map, Option.map_eq_some_iff] at e
    obtain ⟨j, -, rfl⟩ := e
    simp [segmentShaped, entryCount]
  | trim =>
    refine ⟨rfl, fun i x e => ?_⟩
    simp only [defaultBank, defaultTrim, List.getElem?_singleton] at e
    split at e
    · cases e
      rfl
    · cases e

/-- A segment read from a write's entries has the shape of its table, where the entry count is the table's. -/
theorem readSegment_shaped (t : Timing) (table : Table) (lifts : Bool) (seg n : Nat) (bs : List Byte)
    (count : n = entryCount t table seg) : segmentShaped t table seg (readSegment table lifts seg n bs) := by
  cases table with
  | mesh =>
    by_cases zero : seg = 0
    · simp [readSegment, segmentShaped, zero]
    · simp [readSegment, segmentShaped, zero, count]
  | blend =>
    refine ⟨rfl, by simp [count], ?_⟩
    cases lifts <;> simp [readBlend]
  | decode => exact ⟨.inl rfl, by simp [count]⟩
  | encode => exact ⟨.inr rfl, by simp [count]⟩
  | trim => rfl

/-- A bank keeps its shape where a segment of that shape is stored in it. -/
theorem bankShaped_set {t : Timing} {table : Table} {bank : Bank} (shaped : bankShaped t table bank) {seg : Nat}
    {data : Segment} (fits : segmentShaped t table seg data) : bankShaped t table (bank.set seg data) := by
  refine ⟨by simpa using shaped.1, fun i x e => ?_⟩
  rw [List.getElem?_set] at e
  split at e
  · rename_i same
    split at e
    · cases e
      exact same ▸ fits
    · cases e
  · exact shaped.2 i x e

end Sys2Proof.Laws
end

