-- ==== Sys2Proof/Laws/Takes.lean ====
section
/-! SUPPORT. What a take can be: nothing, a refusal, or the state its verb's own rule gives. -/

namespace Sys2Proof.Laws

open Sys2Proof.Machine Sys2Proof.Safety

/-- A take that is due removes the oldest packet; otherwise there is none. -/
theorem nextTake_eq_some {s s' : State} {p : Packet} (h : nextTake s = some (p, s')) :
    s.loader.state = .idle ∧ s.control.state = .ready ∧
      ∃ rest, s.intake.queue = p :: rest ∧ s' = afterTake rest s := by
  unfold nextTake at h
  split at h
  · rename_i due
    split at h
    · rename_i q rest e
      cases h
      exact ⟨due.1, due.2, rest, e, rfl⟩
    · cases h
  · cases h

theorem nextTake_of_due {s : State} {p : Packet} {rest : List Packet} (idle : s.loader.state = .idle)
    (ready : s.control.state = .ready) (queue : s.intake.queue = p :: rest) :
    nextTake s = some (p, afterTake rest s) := by
  simp [nextTake, idle, ready, queue, afterTake]

/-- Everything a verb's command can do outside reset: nothing, or the judged take of the oldest packet. -/
theorem takeVerb_cases (v : Verb) (rule : Packet → State → Verdict) (s : State) :
    takeVerb v rule s = s ∨
      ∃ p rest, s.loader.state = .idle ∧ s.control.state = .ready ∧ s.intake.queue = p :: rest ∧
        verbOf p.header.verb = some v ∧ takeVerb v rule s = judge v rule p (afterTake rest s) := by
  unfold takeVerb
  split
  · rename_i p s' e
    obtain ⟨idle, ready, rest, queue, rfl⟩ := nextTake_eq_some e
    split
    · rename_i verb
      exact .inr ⟨p, rest, idle, ready, queue, verb, rfl⟩
    · exact .inl rfl
  · exact .inl rfl

/-- Everything a judged take can be. -/
theorem judge_cases (v : Verb) (rule : Packet → State → Verdict) (p : Packet) (s : State) :
    (formCorrect v p = false ∧ judge v rule p s = refuseForm p s) ∨
      (formCorrect v p = true ∧
        ((∃ o, judge v rule p s = refuseTake o p s) ∨
          (∃ s', rule p s = .carryOut s' ∧ judge v rule p s = s'))) := by
  unfold judge
  split
  · rename_i form
    exact .inl ⟨form, rfl⟩
  · rename_i form
    refine .inr ⟨by simpa using form, ?_⟩
    split
    · exact .inl ⟨_, rfl⟩
    · split
      · exact .inl ⟨_, rfl⟩
      · rename_i s' e
        exact .inr ⟨s', e, rfl⟩

/-- A due take of a verb with a good form: its own rule judges it, after the head mask. -/
theorem takeVerb_of_takes {v : Verb} {rule : Packet → State → Verdict} {p : Packet} {rest : List Packet} {s : State}
    (h : Takes v p rest s) :
    whileReleased (takeVerb v rule) s =
      if isHeadVerb v = true ∧ packetHeads p = [] then refuseTake .badArg p (afterTake rest s)
      else match rule p (afterTake rest s) with
        | .refuse o => refuseTake o p (afterTake rest s)
        | .carryOut s' => s' := by
  obtain ⟨released, idle, ready, queue, verb, form⟩ := h
  simp only [whileReleased, released, takeVerb, nextTake_of_due idle ready queue, verb, judge, form]
  cases rule p (afterTake rest s) <;> simp

end Sys2Proof.Laws
end

