-- ==== Sys2Proof/WellFormed.lean ====
section
/-! DEFINITION. Which commands the outside can issue: what the ranges of the spec ask of a command's operands. -/

namespace Sys2Proof

/-- Each of the three codes of a received pixel is 0..1023 (R9). -/
def pixelWellFormed (p : Pixel) : Bool :=
  decide (p.r ≤ 1023) && decide (p.g ≤ 1023) && decide (p.b ≤ 1023)

/-- What had been received of a broken-off item holds 10-bit codes where it is part of a line (R9). -/
def partWellFormed : ItemPart → Bool
  | .marker _ => true
  | .line pixels => pixels.all pixelWellFormed
  | .packet _ => true

/-- The operands of a command are ones the outside can supply: the bytes of a malformed marker are no valid marker (R3), a
received line's codes are 10 bits wide, broken off or not (R9), and an answer from below has a body of at most 272 bytes (R164). -/
def Instr.wellFormed : Instr → Bool
  | .powerOnReset broken => broken.all partWellFormed
  | .resetInputRelease _ => true
  | .initializationCompletion => true
  | .carrierUp => true
  | .carrierLoss broken => broken.all partWellFormed
  | .frameStart _ _ _ => true
  | .malformedMarker bytes => !markerValid bytes
  | .lineCompletion pixels => pixels.all pixelWellFormed
  | .packetArrival _ => true
  | .absenceExpiry => true
  | .fillTimerExpiry _ => true
  | .writeCompletion => true
  | .generationCompletion => true
  | .segmentCopyCompletion => true
  | .sendStart => true
  | .sendCompletion _ _ => true
  | .relayArrival answer => decide (answer.body.length ≤ 272)
  | .holdBackRelease _ => true
  | .discover => true
  | .setAccept => true
  | .setLink => true
  | .setIntake => true
  | .setGuard => true
  | .setReturn => true
  | .clearFault => true
  | .readStatus => true
  | .resetUnit => true
  | .setTiming => true
  | .start => true
  | .stop => true
  | .writeTable => true
  | .readTable => true
  | .sync => true
  | .commit => true
  | .cancel => true
  | .unknownVerb => true

end Sys2Proof
end

