-- ==== Sys2Proof/Tests/Slice0.lean ====
section
/-! SUPPORT. Tests on fixed values: the well-formedness smoke, the spec's worked examples, one step of some commands, and for every
statement with hypotheses a concrete case that meets them. -/

namespace Sys2Proof.Tests

open Sys2Proof Sys2Proof.Machine Sys2Proof.Safety

/-! ## Small states -/

/-- A unit that is READY, numbered 2, LOCKED on a 64 by 64 frame, with its default heads parked and its loader idle. -/
def unit : State :=
  { State.reset with
    receiver := { State.reset.receiver with state := .locked, carrier := true, width := 64, height := 64 }
    filter := { hop := some 2#8, groups := [] }
    loader := { state := .idle, lastRefusal := none }
    control := { state := .ready, startUp := true, resetInput := false } }

/-- A packet to address 255. -/
def packet (verb tag flags : Byte) (body : List Byte) : Packet where
  header := { target := 0xFF#8, verb := verb, tag := tag, flags := flags, length := BitVec.ofNat 16 body.length }
  body := body

/-- `unit` with one packet queued. -/
def taking (p : Packet) : State := { unit with intake := { unit.intake with queue := [p] } }

/-- One head of a state changed. -/
def withHead (k : HeadId) (f : Head → Head) (s : State) : State := { s with heads := s.heads.set k (f (s.heads.get k)) }

/-- `unit` in another receiver state. -/
def linked (l : LinkState) : State := { unit with receiver := { unit.receiver with state := l } }

/-- A head whose output is 256 by 128, with the identity mesh of its timing from the origin. -/
def smallTiming : Timing :=
  { width := 256, height := 128, k := 7, b := 6, delay := 0, lineStep := 4096, fillPeriod := 16667 }

def smallHead : Head :=
  { resetHead .h0 with
    timing := smallTiming
    pairs := { defaultPairs .h0 with
      mesh := freshPair (identityMesh smallTiming 0 0 64 64) (segmentCount smallTiming .mesh)
      blend := freshPair (unityBlend smallTiming) (segmentCount smallTiming .blend) } }

/-- An untagged commit of TRIM, its answer wanted. -/
def trimCommit : ArmedCommit :=
  { tables := { mesh := false, blend := false, decode := false, encode := false, trim := true }
    frameTag := none, tag := 7#8, wanted := true }

/-- The next state of a command, the state itself where there is none. -/
def after (c : Instr) (s : State) : State :=
  match exec c s with
  | .next t => t
  | .fault _ => s
  | .refused _ => s

/-! ## Well-formedness: each check refuses an ill-formed command and accepts a well-formed one -/

theorem test_wellFormed_refuses_valid_marker :
    (Instr.malformedMarker (encodeMarker 5#8 3840#16 2160#16)).wellFormed = false := by decide +kernel

theorem test_wellFormed_accepts_bad_marker : (Instr.malformedMarker [1#8, 2#8]).wellFormed = true := by decide +kernel

theorem test_wellFormed_refuses_wide_code : (Instr.lineCompletion [⟨1023, 1024, 0⟩]).wellFormed = false := by decide

theorem test_wellFormed_accepts_top_code : (Instr.lineCompletion [⟨1023, 1023, 1023⟩]).wellFormed = true := by decide

theorem test_wellFormed_refuses_wide_code_broken_off :
    (Instr.carrierLoss (some (.line [⟨1024, 0, 0⟩]))).wellFormed = false ∧
      (Instr.powerOnReset (some (.line [⟨0, 0, 1024⟩]))).wellFormed = false := by decide

theorem test_wellFormed_accepts_broken_off :
    (Instr.carrierLoss (some (.line [⟨1023, 0, 0⟩]))).wellFormed = true ∧ (Instr.carrierLoss none).wellFormed = true ∧
      (Instr.powerOnReset (some (.packet [0#8]))).wellFormed = true := by decide

theorem test_wellFormed_refuses_long_relay :
    (Instr.relayArrival (sealAnswer 0#8 0#8 0#8 0#8 0#8 (List.replicate 273 0#8))).wellFormed = false := by decide +kernel

theorem test_wellFormed_accepts_longest_relay :
    (Instr.relayArrival (sealAnswer 0#8 0#8 0#8 0#8 0#8 (List.replicate 272 0#8))).wellFormed = true := by decide +kernel

/-! ## The spec's own values -/

/-- R194's nine bytes and their check. -/
theorem test_check_value :
    crc16 [0x31#8, 0x32#8, 0x33#8, 0x34#8, 0x35#8, 0x36#8, 0x37#8, 0x38#8, 0x39#8] = 0x29B1#16 := by decide +kernel

/-- The worked COMMIT of section 11.3. -/
theorem test_commit_bytes :
    packetOf [0x28#8, 0x26#8, 0x3C#8, 0x8F#8, 0x00#8, 0x03#8, 0x03#8, 0x01#8, 0x5A#8, 0#8, 0#8] =
      { header := { target := 40#8, verb := 0x26#8, tag := 60#8, flags := 0x8F#8, length := 3#16 }
        body := [3#8, 1#8, 90#8] } := by decide +kernel

/-- The declared 5000 by 40 of section 1.1 is stored as 4096 by 64. -/
theorem test_geometry_clamped : clampNat 5000 64 4096 = 4096 ∧ clampNat 40 64 2304 = 64 := by decide

/-- The mesh header of section 2.1. -/
theorem test_header_clamped :
    clampHeader 5000 2000 100 1000 .extend = { ox := 4095, oy := 2000, wx := 1, wy := 304, edge := .extend } := by decide

/-- The source coordinate of section 2.3's example and its taps. -/
theorem test_bent_corner :
    bilinear 64 5 55 (-200) 820 (-180) 840 = -103 ∧ bilinear 64 5 55 34000 34010 35030 35040 = 34886 ∧
      tapPlaces (-103) 34886 = [(2180, -7, 70), (2180, -6, 90), (2181, -7, 42), (2181, -6, 54)] := by decide

/-- The four rows of section 3.3's trim example. -/
theorem test_trim_rows :
    trimLight 4096 0 26585 = 26585 ∧ trimLight 4000 (-120) 9480 = 9138 ∧ trimLight 5000 0 65535 = 65535 ∧
      trimLight 4096 (-300) 100 = 0 := by decide

/-- Section 3.5's blend grid example and the light path of section 3.8: weight 2731, lift 300, encode index 396. -/
theorem test_light_path :
    bilinear 32 8 6 2704 2800 2720 2816 = 2731 ∧ bilinear 32 8 6 360 160 340 0 = 300 ∧
      (weightLight 9138 2731 + taperLift 300 9138) / 16 = 396 := by decide

/-- Section 4.2's release lines under D = 100 and S = 3072. -/
theorem test_release_lines :
    ([0, 1, 2, 3, 4, 5].map (releaseLine { smallTiming with delay := 100, lineStep := 3072 })) =
      [100, 100, 101, 102, 103, 103] := by decide

/-- Section 6.4: hop field 14 is forwarded as 15, and 15 as 15 with the overflow flag set. -/
theorem test_forwarded_hop :
    forwardedHop 14#8 0#8 = (15#8, 0#8) ∧ forwardedHop 15#8 0#8 = (15#8, 1#8) ∧ forwardedHop 15#8 1#8 = (15#8, 1#8) := by decide

/-- Section 8.3: 240, two failures, and MUTE. -/
theorem test_into_mute :
    (countFailed (countFailed { errors := 240, muteRun := 0, warn := true, rearm := false })).errors = 256 := by decide

/-! ## One step of some commands -/

theorem test_discover_takes_hop :
    (after .discover (taking (packet 0x10#8 5#8 0x80#8 [0#8, 0#8]))).filter.hop = some 0#8 := by decide +kernel

theorem test_discover_overflow_unnumbers :
    (after .discover (taking (packet 0x10#8 5#8 0x80#8 [15#8, 1#8]))).filter.hop = none := by decide +kernel

theorem test_setAccept_refuses_low_address :
    (after .setAccept (taking (packet 0x11#8 5#8 0x80#8 [0#8, 2#8, 48#8, 7#8]))).filter.groups = [] := by decide +kernel

theorem test_start_locked_primes :
    ((after .start (taking (packet 0x21#8 5#8 0x81#8 []))).heads.get .h0).state = .priming := by decide +kernel

theorem test_commit_parked_swaps_at_once :
    ((after .commit (taking (packet 0x26#8 5#8 0x81#8 [16#8, 0#8, 0#8]))).answers.own.map Answer.outcome) =
      [0x01#8, 0x02#8] := by decide +kernel

theorem test_unknown_verb_reports_form :
    (after .unknownVerb (taking (packet 0x99#8 5#8 0x80#8 []))).fault.entry.map FaultEntry.kind = some .form := by
  decide +kernel

/-- A carrier loss in the middle of a packet: its first two bytes go on, then the carrier is withdrawn (R15, R16). -/
theorem test_carrier_loss_repeats_part :
    (after (.carrierLoss (some (.packet [0x28#8, 0x26#8]))) unit).outputs.thru =
      [.part (.packet [0x28#8, 0x26#8]), .carrier false] := by decide +kernel

/-- A release of the return lane reaches a part whose reset input is asserted (R171). -/
theorem test_release_during_reset :
    (after .holdBackRelease { State.reset with answers := { State.reset.answers with heldBack := true } }).answers.heldBack =
      false := by decide +kernel

/-- A hold-back asserted on an idle lane is kept by a power-on reset, and no send starts under it (R171). -/
theorem test_hold_back_on_idle_lane :
    (after (.powerOnReset none) (after (.holdBackRelease true) unit)).answers.heldBack = true ∧
      (let s : State := { unit with answers := { unit.answers with own := [sealAnswer 0#8 0#8 0#8 0#8 0#8 []] } }
       (after .sendStart (after (.holdBackRelease true) s)).answers.sending = none) := by decide +kernel

/-- The spec gives the frame tag byte of an untagged commit no value; the three bytes before it are given (R190, R199). -/
theorem test_armed_block_untagged : (armedBlock (fun _ => 9#8) (some trimCommit)).take 3 = [1#8, 16#8, 0#8] := by decide

theorem test_queue_runs_in_order :
    step { State.reset with pending := [.resetInputRelease false, .carrierUp] } =
      .next { State.reset with control := { State.reset.control with resetInput := false }, pending := [.carrierUp] } := rfl

/-! ## Every hypothesis can be met: one case for each statement that has hypotheses, and for each of its clauses -/

/-- The part just after its reset input is released. -/
def released : State := { State.reset with control := { State.reset.control with resetInput := false } }

/-- A READ-STATUS packet and the state about to take it. -/
def statusPacket : Packet := packet 0x17#8 1#8 0x80#8 []

theorem takes_of_taking (v : Verb) (p : Packet) (verb : verbOf p.header.verb = some v) (form : formCorrect v p = true) :
    Takes v p [] (taking p) := ⟨rfl, rfl, rfl, rfl, verb, form⟩

theorem witness_EmptyQueueStepDoesWhatIsOwed :
    (State.reset.pending = [] ∧ State.reset.control.resetInput = true) ∧
    (let s : State := { unit with answers := { unit.answers with own := [sealAnswer 0#8 0#8 0#8 0#8 0#8 []] } }
     s.pending = [] ∧ s.control.resetInput = false ∧ s.answers.sending = none ∧ s.answers.heldBack = false ∧
       s.answers.own ≠ []) ∧
    (let s := taking statusPacket
     s.pending = [] ∧ s.control.resetInput = false ∧ ¬(s.answers.own ≠ [] ∨ s.answers.relay ≠ []) ∧ s.loader.state = .idle ∧
       s.control.state = .ready ∧ s.intake.queue = statusPacket :: []) ∧
    (unit.pending = [] ∧ unit.control.resetInput = false ∧ ¬(unit.answers.own ≠ [] ∨ unit.answers.relay ≠ []) ∧
      unit.intake.queue = []) := by
  decide +kernel

theorem witness_ResetInputGatesEvents :
    (State.reset.control.resetInput = true ∧ (∀ b, Instr.carrierUp ≠ .powerOnReset b) ∧
      (∀ b, Instr.carrierUp ≠ .resetInputRelease b) ∧ ∀ b, Instr.carrierUp ≠ .holdBackRelease b) ∧
    (State.reset.receiver.carrier = false ∧ State.reset.receiver.state = .noSignal) :=
  ⟨⟨rfl, fun _ => by simp, fun _ => by simp, fun _ => by simp⟩, rfl, rfl⟩

theorem witness_PowerOnResetSetsEveryBlock : State.reset.receiver.carrier = false ∧ unit.receiver.carrier = true := ⟨rfl, rfl⟩

theorem witness_InitializationCompletionLeavesDefaults :
    (released.control.resetInput = false ∧ released.control.state = .initializing ∧ released.intake.queue = [] ∧
      released.loader.state = .startingUp) ∧
    (let s : State := { released with loader := { released.loader with state := .resetting statusPacket } }
     s.control.resetInput = false ∧ s.control.state = .initializing ∧ s.intake.queue = [] ∧
       s.loader.state = .resetting statusPacket) ∧
    (1023 ≤ 1023 ∧ 4095 ≤ 4095) ∧
    (let s : State := { released with intake := { released.intake with queue := [statusPacket] } }
     s.control.resetInput = false ∧ s.control.state = .initializing ∧ s.intake.queue = statusPacket :: []) := by
  decide +kernel

theorem witness_ResetUnitKeepsLinkAndParksHeads :
    Takes .resetUnit (packet 0x18#8 1#8 0x80#8 []) [] (taking (packet 0x18#8 1#8 0x80#8 [])) :=
  takes_of_taking _ _ (by decide) (by decide)

theorem witness_CarrierAndMalformedMarkersMoveReceiver :
    (released.control.resetInput = false ∧ released.receiver.carrier = false) ∧
    ∀ l : LinkState, l ≠ .noSignal →
      (linked l).control.resetInput = false ∧ (linked l).receiver.carrier = true ∧ (linked l).receiver.state = l :=
  ⟨⟨rfl, rfl⟩, fun _ _ => ⟨rfl, rfl, rfl⟩⟩

theorem witness_FrameStartLocksAndHandsToHeads (l : LinkState) (n : l ≠ .noSignal) :
    (linked l).control.resetInput = false ∧ (linked l).receiver.state ≠ .noSignal ∧
      ∀ k view regain f, (takeFrameStart view regain f ((linked l).heads.get k)).swapped = none :=
  ⟨rfl, n, fun k _ _ _ => by cases k <;> rfl⟩

/-- `unit` COASTING with its absence timer running. -/
def coasting : State := { unit with receiver := { unit.receiver with state := .coasting, absenceTimer := some 100 } }

theorem witness_AbsenceExpiryEndsLock :
    coasting.control.resetInput = false ∧ coasting.receiver.state = .coasting ∧
      coasting.receiver.absenceTimer.isSome = true ∧ ∀ k view, (takeAbsence view (coasting.heads.get k)).swapped = none :=
  ⟨rfl, rfl, rfl, fun k _ => by cases k <;> rfl⟩

/-- `unit` with a number of lines completed. -/
def atLine (n : Nat) : State := { unit with receiver := { unit.receiver with lines := n } }

theorem witness_ActiveLineEntersRingThenHeads :
    ((atLine 63).control.resetInput = false ∧ (atLine 63).receiver.state = .locked ∧
      (atLine 63).receiver.lines < (atLine 63).receiver.height ∧
      ∀ k view, (takeLine view 63 ((atLine 63).heads.get k)).swapped = none) ∧
    ((atLine 64).control.resetInput = false ∧ (atLine 64).receiver.state = .locked ∧
      (atLine 64).receiver.height ≤ (atLine 64).receiver.lines) ∧
    (linked .search).receiver.state = .search ∧ coasting.receiver.state = .coasting :=
  ⟨⟨rfl, rfl, by decide, fun k _ => by cases k <;> rfl⟩, ⟨rfl, rfl, by decide⟩, rfl, rfl⟩

theorem witness_shaped_line_clauses :
    let px : List Pixel := [⟨1, 2, 3⟩, ⟨4, 5, 6⟩]
    (1 < 64 ∧ 1 < px.length) ∧ (2 < 64 ∧ px.length ≤ 2 ∧ px ≠ []) := by decide

theorem witness_FailedPacketCountsAndReports :
    unit.control.resetInput = false ∧ unit.receiver.state = .locked ∧ packetGood [] = false ∧
      packetGood [1#8, 2#8, 3#8, 4#8, 0#8] = false ∧ (linked .search).receiver.state = .search ∧
      coasting.receiver.state = .coasting := by decide +kernel

/-- `unit` with `n` packets queued. -/
def queued (n : Nat) (m : IntakeMode) : State :=
  { unit with intake := { queue := List.replicate n statusPacket, mode := m, lost := 254 } }

theorem witness_GoodPacketIsFilteredAndQueued :
    let bytes := encodePacket statusPacket
    let other := encodePacket { statusPacket with header := { statusPacket.header with target := 1#8 } }
    (packetGood other = true ∧ ¬(rawHeader other).target ∈ acceptanceMap unit.filter) ∧
    (packetGood bytes = true ∧ (rawHeader bytes).target ∈ acceptanceMap unit.filter ∧
      confinementOf (countGood unit.health).errors ≠ .mute) ∧
    ((queued 3 .overrun).receiver.state = .locked ∧ (queued 3 .overrun).intake.queue.length < 4) ∧
    ((queued 4 .overrun).intake.queue = statusPacket :: List.replicate 3 statusPacket ∧
      3 ≤ (List.replicate 3 statusPacket).length ∧ (queued 4 .overrun).intake.mode = .overrun) ∧
    ((queued 4 .overwrite).intake.queue = statusPacket :: List.replicate 3 statusPacket ∧
      (queued 4 .overwrite).intake.mode = .overwrite) := by decide +kernel

theorem healthLegal_of_active (e : Nat) (h : e < 96) (w : Bool) :
    HealthLegal { errors := e, muteRun := 0, warn := w, rearm := true } :=
  ⟨by simp only; omega, by simp, fun _ => rfl, by simp [h]⟩

theorem witness_CheckResultsMoveErrorCount :
    HealthLegal { errors := 95, muteRun := 0, warn := false, rearm := true } ∧
    HealthLegal { errors := 96, muteRun := 0, warn := true, rearm := false } ∧
    HealthLegal { errors := 255, muteRun := 0, warn := true, rearm := false } ∧
    HealthLegal { errors := 256, muteRun := 62, warn := true, rearm := false } ∧
    HealthLegal { errors := 256, muteRun := 63, warn := true, rearm := false } ∧
    (95 < 96 ∧ 96 ≤ (countFailed { errors := 95, muteRun := 0, warn := false, rearm := true }).errors) ∧
    (96 ≤ 96 ∧ (countGood { errors := 96, muteRun := 0, warn := true, rearm := false }).errors < 96) ∧ 64 ≤ 64 := by
  unfold HealthLegal; decide

theorem witness_error_count_kept_by_others :
    ∃ t, exec .carrierUp released = .next t ∧ (∀ b, Instr.carrierUp ≠ .powerOnReset b) ∧
      ∀ bytes, Instr.carrierUp ≠ .packetArrival bytes := ⟨_, rfl, fun _ => by simp, fun _ => by simp⟩

/-- `unit` with an occupied fault record. -/
def faulted (g : GuardMode) (n : Nat) : State :=
  { unit with fault := { entry := some { kind := .check, complete := false, header := statusPacket.header, frame := 0#8,
                                         overflow := n }
                         guard := g } }

theorem witness_FirstFaultIsKeptAndLaterOnesCounted :
    unit.fault.entry = none ∧
    ∃ t e, exec (.packetArrival []) (faulted .strict 255) = .next t ∧ (faulted .strict 255).fault.entry = some e ∧
      e.overflow ≤ 255 ∧ (∀ b, Instr.packetArrival [] ≠ .powerOnReset b) ∧ Instr.packetArrival [] ≠ .clearFault ∧
      Instr.packetArrival [] ≠ .initializationCompletion :=
  ⟨rfl, _, _, rfl, rfl, by decide, fun _ => by simp, by decide, by decide⟩

theorem witness_LinkItemsReadBackAsWritten :
    ((packet 1#8 2#8 3#8 (List.replicate 272 7#8)).body.length =
        (packet 1#8 2#8 3#8 (List.replicate 272 7#8)).header.length.toNat ∧
      (packet 1#8 2#8 3#8 (List.replicate 272 7#8)).body.length ≤ 272) ∧
    (sealAnswer 0#8 1#8 2#8 3#8 4#8 [5#8]).body.length < 65536 ∧ packetGood (encodePacket statusPacket) = true ∧
    decodeMarker [1#8, 2#8] = .malformedMarker [1#8, 2#8] ∧
    (answerOf (answerBytes (sealAnswer 0#8 1#8 2#8 3#8 4#8 []))).isSome = true := by
  decide +kernel

theorem witness_ThruPortForwardsPacketsAndCountsHop :
    (packetGood [1#8] = false ∧ (rawHeader (encodePacket statusPacket)).verb ≠ 0x10#8) ∧
    (let p := packet 0x10#8 1#8 0x80#8 (14#8 :: 0#8 :: List.replicate 270 7#8)
     p.header.verb = 0x10#8 ∧ p.header.length.toNat = 2 + (List.replicate 270 7#8).length ∧
       (List.replicate 270 7#8).length ≤ 270) ∧
    ((14#8).toNat ≤ 14 ∧ ¬(15#8).toNat ≤ 14) := by decide +kernel

theorem witness_FrameStartSwapsDueCommit :
    let parked (c : Option ArmedCommit) : Head := { smallHead with armed := c }
    let tagged : ArmedCommit := { trimCommit with frameTag := some 5#8 }
    ((parked (some tagged)).state = .parked ∧ (parked (some tagged)).armed = some tagged ∧ tagged.frameTag = some 5#8) ∧
    ((parked none).state = .parked ∧ (parked none).armed = none) ∧
    (HeadLegal { smallHead with state := .priming, armed := some trimCommit } ∧
      HeadLegal { smallHead with state := .fill, fillTimer := some 16667, nextLine := 128, armed := some tagged } ∧
      HeadLegal { smallHead with state := .run, nextLine := 128 }) ∧
    (smallHead.stopPending = false ∧ smallHead.timing.height = 128 ∧ trimCommit.frameTag = none ∧
      tagged.frameTag ≠ none ∧ tagged.frameTag ≠ some 6#8) := by
  unfold HeadLegal; decide +kernel

theorem witness_OwedLinesEndTheFrame (stopping : Bool) (c : Option ArmedCommit) :
    let h : Head := { smallHead with state := .run, nextLine := 127, stopPending := stopping, armed := c }
    h.state = .run ∧ h.nextLine < h.timing.height ∧ h.armed = c ∧ h.fillTimer = none ∧ h.stopPending = stopping :=
  ⟨rfl, (by decide : 127 < 128), rfl, rfl, rfl⟩

theorem witness_commits_due :
    trimCommit.frameTag = none ∧ ({ trimCommit with frameTag := some 5#8 } : ArmedCommit).frameTag = some 5#8 ∧
      ({ trimCommit with frameTag := some 5#8 } : ArmedCommit).frameTag ≠ none := by decide

theorem witness_AbsenceExpiryTurnsHeadsToFill (stopping : Bool) (c : Option ArmedCommit) :
    let run : Head := { smallHead with state := .run, nextLine := 127, stopPending := stopping, armed := c }
    let priming : Head := { smallHead with state := .priming, armed := c }
    let fill : Head := { smallHead with state := .fill, nextLine := 128, fillTimer := some 16667, armed := c }
    (run.armed = c ∧ run.nextLine ≤ run.timing.height ∧ run.fillTimer = none ∧ run.state = .run ∧
      run.stopPending = stopping) ∧
    (priming.nextLine ≤ priming.timing.height ∧ priming.fillTimer = none ∧ priming.state = .priming) ∧
    (fill.nextLine ≤ fill.timing.height ∧ fill.state = .fill) ∧
    (smallHead.nextLine ≤ smallHead.timing.height ∧ smallHead.fillTimer = none ∧ smallHead.state = .parked) :=
  ⟨⟨rfl, (by decide : 127 ≤ 128), rfl, rfl, rfl⟩, ⟨Nat.zero_le _, rfl, rfl⟩, ⟨(by decide : 128 ≤ 128), rfl⟩, Nat.zero_le _, rfl, rfl⟩

theorem witness_RunningHeadReleasesExactlyDueLines (stopping : Bool) (c : Option ArmedCommit) (next : Nat) :
    let h : Head := { smallHead with state := .run, missTotal := 65535, stopPending := stopping, armed := c, nextLine := next }
    smallHead.state ≠ .run ∧ h.state = .run ∧ h.missTotal ≤ 65535 ∧ h.stopPending = stopping ∧ h.armed = c :=
  ⟨by decide, rfl, Nat.le_refl _, rfl, rfl⟩

/-- The last line is due at input line 63 of 64, so that a stop-pending head parks there; at input line 0 only line 0 is. -/
theorem witness_due_lines :
    dueLines { width := 64, height := 64, ring := [] } 63 { smallHead with nextLine := 127 } = [127] ∧
      dueLines { width := 64, height := 64, ring := [] } 0 smallHead = [0] ∧ smallHead.timing.height ≤ 127 + 1 ∧
      0 + 1 < smallHead.timing.height := by decide +kernel

theorem witness_SwapExchangesListedBanks :
    trimCommit.tables.get .trim = true ∧ trimCommit.tables.get .mesh = false := by decide

/-- `unit` with one parked head whose tagged TRIM commit waits for frame 5. -/
def armedFor5 : State := withHead .h1 (fun h => { h with armed := some { trimCommit with frameTag := some 5#8 } }) unit

theorem witness_CommittedAnswersOncePerSwappingHead :
    armedFor5.control.resetInput = false ∧ armedFor5.receiver.state ≠ .noSignal ∧ armedFor5.answers.own = [] ∧
      confinement armedFor5 = .active ∧ (∃ t, exec (.frameStart 5#8 64#16 64#16) armedFor5 = .next t) ∧
      ((takeFrameStart (viewOf armedFor5) false 5#8 (armedFor5.heads.get .h1)).swapped).isSome = true :=
  ⟨rfl, by decide, rfl, rfl, ⟨_, rfl⟩, by decide +kernel⟩

/-- A stop-pending head with one line owed, under an untagged commit: it parks and swaps at its last line (R81). -/
def lastLineOwed : Head :=
  { smallHead with state := .run, nextLine := 127, stopPending := true, armed := some trimCommit }

/-- `unit` in a receiver state, at the last line of its frame, with such a head as H1. -/
def stopping (l : LinkState) (timer : Option Nat) : State :=
  let s := withHead .h1 (fun _ => lastLineOwed) unit
  { s with receiver := { s.receiver with state := l, absenceTimer := timer, lines := 63 } }

/-- A swap at a line completion and one at an absence expiry, in an ACTIVE unit with an empty own queue (R81, R101). -/
theorem witness_committed_at_parking :
    (∀ l timer, (stopping l timer).control.resetInput = false ∧ (stopping l timer).receiver.state = l ∧
      (stopping l timer).receiver.absenceTimer = timer ∧ (stopping l timer).receiver.lines < (stopping l timer).receiver.height ∧
      (stopping l timer).answers.own = [] ∧ confinement (stopping l timer) = .active ∧
      (stopping l timer).heads.get .h1 = lastLineOwed) ∧
    (∀ view, (takeAbsence view lastLineOwed).swapped = some trimCommit) ∧
    (∃ y, lastLineOwed.nextLine ≤ y ∧ y < lastLineOwed.timing.height ∧ min (releaseLine lastLineOwed.timing y) (64 - 1) ≤ 63) ∧
    trimCommit.wanted = true :=
  ⟨fun _ _ => ⟨rfl, rfl, rfl, (by decide : 63 < 64), rfl, rfl, rfl⟩, fun _ => rfl, ⟨127, by decide⟩, rfl⟩

/-- `unit` with head H2 in FILL. -/
def filling (c : Option ArmedCommit) : State :=
  withHead .h2 (fun h => { h with state := .fill, fillTimer := some 16667, armed := c }) unit

theorem witness_FillTimerExpiryEmitsFillFrame (c : Option ArmedCommit) :
    (∃ x, (unit.heads.get .h2).pairs.trim.live = [.trim x]) ∧
    (filling c).control.resetInput = false ∧ ((filling c).heads.get .h2).state = .fill ∧
      ((filling c).heads.get .h2).fillTimer.isSome = true ∧ ((filling c).heads.get .h2).armed = c ∧
      trimCommit.frameTag = none := ⟨⟨_, rfl⟩, rfl, rfl, rfl, rfl, rfl⟩

theorem witness_InterpolationStaysBetweenCorners : 63 < 64 ∧ 0 < 64 := by decide

/-- A header whose window is columns 0..63 and rows 0..63. -/
def header64 (edge : EdgePolicy) : MeshHeader := { ox := 0, oy := 0, wx := 64, wy := 64, edge := edge }

/-- A frame of 64 columns and rows with only row 5 held. -/
def view64 (ring : List RingLine) : View := { width := 64, height := 64, ring := ring }

/-- Two held lines: the second one's pixel at column 1. -/
theorem witness_held_pixel :
    let ring : List RingLine := [{ number := 4, pixels := [] }, { number := 5, pixels := [⟨1, 2, 3⟩, ⟨4, 5, 6⟩] }]
    (∃ l ∈ ring, l.number = 5 ∧ l.pixels[1]? = some ⟨4, 5, 6⟩) ∧ (ring.map RingLine.number).Nodup ∧
      ringPixel ring 5 1 = ⟨4, 5, 6⟩ := by decide +kernel

theorem witness_TapsFollowWindowAndReach :
    (let h := { header64 .extend with ox := 64 }
     min (h.ox + h.wx : Int) 64 - 1 < h.ox) ∧
    (¬(min ((header64 .black).ox + (header64 .black).wx : Int) (view64 []).width - 1 < (header64 .black).ox)) ∧
    ((0 : Int) ≤ 63 ∧ (63 : Int) ≤ 63 ∧ ¬((64 : Int) ≤ 63)) ∧
    (let line : RingLine := { number := 5, pixels := [] }
     (view64 [line]).ring.head? = some line ∧ (view64 [line]).ring.getLast? = some line ∧ line.number ≤ line.number ∧
       ((line.number : Int) ≤ 5 ∧ (5 : Int) ≤ line.number) ∧ (4 : Int) < line.number ∧ (line.number : Int) < 6) := by
  decide +kernel

theorem witness_FormedLineSamplesEveryPixel :
    255 < smallHead.timing.width ∧
    (∃ h row p, smallHead.pairs.mesh.live[0]? = some (.header h) ∧ smallHead.pairs.mesh.live[1]? = some (.points row) ∧
      row[2]? = some p) ∧
    (bankPoint [.header (header64 .black), .points [{ sx := 0, sy := 0, blank := true }]] 0 0).blank = true ∧
    ((bankPoint smallHead.pairs.mesh.live 0 0).blank = false ∧ (bankPoint smallHead.pairs.mesh.live 1 0).blank = false ∧
      (bankPoint smallHead.pairs.mesh.live 0 1).blank = false ∧ (bankPoint smallHead.pairs.mesh.live 1 1).blank = false) :=
  ⟨by decide, ⟨_, _, _, rfl, rfl, rfl⟩, by decide +kernel, by decide +kernel⟩

theorem witness_LightPathFollowsItsStages :
    (∃ x, smallHead.pairs.trim.live = [.trim x]) ∧
    (∃ entries code, defaultDecode[1023 / 64]? = some (.values entries) ∧ entries[1023 % 64]? = some code) ∧
    (∃ row p, smallHead.pairs.blend.live[2]? = some (.blends row) ∧ row[4]? = some p) ∧ 0 < 2 ^ smallHead.timing.b :=
  ⟨⟨_, rfl⟩, ⟨_, _, rfl, rfl⟩, ⟨_, _, rfl, rfl⟩, by decide⟩

theorem witness_IdentityTablesShowInputUnchanged :
    (255 < smallTiming.width ∧ 127 < smallTiming.height ∧ 2 < meshAcross smallTiming ∧ 1 < meshDown smallTiming ∧
      4 < blendAcross smallTiming ∧ 2 < blendDown smallTiming) ∧
    (smallHead.timing = smallTiming ∧ smallHead.pairs.mesh.live = identityMesh smallTiming 0 0 64 64 ∧
      smallHead.pairs.blend.live = unityBlend smallTiming ∧ smallHead.pairs.decode.live = defaultDecode ∧
      smallHead.pairs.encode.live = defaultEncode ∧ smallHead.pairs.trim.live = defaultTrim) ∧
    fetchTap (view64 [{ number := 5, pixels := [⟨1023, 0, 7⟩] }]) (bankHeader smallHead.pairs.mesh.live)
      ((min 0 2303 + 5 : Nat) : Int) ((min 0 4095 + 0 : Nat) : Int) = (⟨1023, 0, 7⟩, false) :=
  ⟨by decide, ⟨rfl, rfl, rfl, rfl, rfl, rfl⟩, by decide +kernel⟩

theorem witness_LightStagesRoundClampAndStayInRange : 4096 ≤ 4096 ∧ 4095 ≤ 4095 ∧ 65535 ≤ 65535 ∧ 65534 ≤ 65535 := by decide

theorem witness_SegmentBytesReadBackAsStored :
    segmentLegal .mesh (.header { ox := 4095, oy := 2303, wx := 1, wy := 1, edge := .black }) ∧
    (1 ≠ 0 ∧ segmentLegal .mesh (.points [{ sx := -131072, sy := 131071, blank := true }])) ∧
    (segmentLegal .blend (.blends [{ weight := 4096, lift := some 4095 }]) ∧
      ∀ q ∈ [({ weight := 4096, lift := some 4095 } : BlendPoint)], q.lift.isSome = true) ∧
    segmentLegal .decode (.values [65535]) ∧ segmentLegal .encode (.values [1023]) ∧
    segmentLegal .trim (.trim { gain := ⟨8191, 0, 4096⟩, offset := ⟨-4096, 4095, 0⟩, fill := ⟨1023, 0, 0⟩ }) := by
  simp [segmentLegal]

theorem witness_AnswerGeneratedOrSuppressedOrDropped :
    (¬(false = true ∧ confinement unit = .active)) ∧
    (confinement unit = .active ∧ unit.answers.own.length < 4) ∧
    (let s : State := { unit with
       health := { errors := 128, muteRun := 0, warn := true, rearm := false }
       answers := { unit.answers with own := List.replicate 4 (sealAnswer 0#8 0#8 0#8 0#8 0#8 []), lost := 255 } }
     confinement s = .reduced ∧ 4 ≤ s.answers.own.length) := by decide +kernel

/-- `unit` with answers waiting. -/
def waiting (own relay : Nat) (m : MergeMode) (l : Served) : State :=
  let a := sealAnswer 0#8 0#8 0#8 0#8 0#8 []
  { unit with answers := { own := List.replicate own a, relay := List.replicate relay a, sending := none, heldBack := false,
                           mode := m, lost := 0, lastServed := l } }

theorem witness_LaneServesByMergeModeAndDelivers :
    ∀ m l, (waiting 4 2 m l).control.resetInput = false ∧ (waiting 4 2 m l).answers.sending = none ∧
      (waiting 4 2 m l).answers.heldBack = false ∧ (waiting 4 2 m l).answers.own.length = 4 ∧
      (waiting 4 2 m l).answers.relay.length = 2 ∧ (waiting 4 0 m l).answers.relay = [] ∧
      (waiting 0 2 m l).answers.own = [] ∧ (waiting 0 1 m l).answers.relay.length = 1 ∧
      (waiting 4 2 m l).answers.mode = m ∧ (waiting 4 2 m l).answers.lastServed = l ∧
      (∃ a, (after .sendStart (waiting 1 0 m l)).answers.sending = some a) :=
  fun _ _ => ⟨rfl, rfl, rfl, rfl, rfl, rfl, rfl, rfl, rfl, rfl, _, rfl⟩

theorem witness_lane_not_free :
    (after .sendStart (waiting 1 0 .relayFirst .own)).answers.sending ≠ none ∧
    (after (.sendCompletion true false) (after .sendStart (waiting 1 0 .relayFirst .own))).answers.heldBack = true ∧
    (waiting 4 2 .alternate .own).answers.relay =
      [sealAnswer 0#8 0#8 0#8 0#8 0#8 [], sealAnswer 0#8 0#8 0#8 0#8 0#8 []] := by decide +kernel

theorem witness_RefusedTakesOnlyRecordAndAnswer :
    (verbOf (packet 0x99#8 1#8 0x80#8 []).header.verb = none) ∧
    (verbOf (packet 0x21#8 1#8 0x81#8 [0#8]).header.verb = some .start ∧
      formCorrect .start (packet 0x21#8 1#8 0x81#8 [0#8]) = false) ∧
    (verbOf (packet 0x21#8 1#8 0x80#8 []).header.verb = some .start ∧
      formCorrect .start (packet 0x21#8 1#8 0x80#8 []) = true ∧ isHeadVerb .start = true ∧
      packetHeads (packet 0x21#8 1#8 0x80#8 []) = []) ∧
    (let s := taking (packet 0x21#8 1#8 0x80#8 [])
     s.control.resetInput = false ∧ s.loader.state = .idle ∧ s.control.state = .ready ∧
       s.intake.queue = packet 0x21#8 1#8 0x80#8 [] :: []) := by decide +kernel

/-- A state with one packet queued and nothing else changed. -/
def queueing (p : Packet) (s : State) : State := { s with intake := { s.intake with queue := [p] } }

/-- The packets of the table and run verbs, all for head H0 with their answers wanted. -/
def startPacket : Packet := packet 0x21#8 1#8 0x81#8 []
def stopPacket : Packet := packet 0x22#8 1#8 0x8F#8 []
def timingPacket : Packet :=
  packet 0x20#8 1#8 0x81#8
    (natBytes2 256 ++ natBytes2 128 ++ [7#8, 6#8] ++ natBytes2 0 ++ natBytes2 4096 ++ natBytes2 16667 ++
      natBytes2 0 ++ natBytes2 0 ++ natBytes2 64 ++ natBytes2 64)
def commitPacket : Packet := packet 0x26#8 1#8 0x81#8 [16#8, 0#8, 0#8]
def syncPacket : Packet := packet 0x25#8 1#8 0x81#8 [16#8]
def cancelPacket : Packet := packet 0x27#8 1#8 0x81#8 [16#8]
def writePacket : Packet := packet 0x23#8 1#8 0x81#8 ([4#8, 0#8, 0#8, 9#8] ++ List.replicate 18 0#8)
def readPacket (bank : Byte) : Packet := packet 0x24#8 1#8 0x81#8 [4#8, bank, 0#8]

/-- `unit` with H0's TRIM shadow STALE, and the same with a sync job for it and its copy in flight. -/
def stale : State :=
  withHead .h0 (fun h => { h with pairs := h.pairs.set .trim { live := defaultTrim, shadow := defaultTrim, coverage := [] } }) unit
def syncing : State :=
  { stale with copy := { jobs := [{ head := .h0, table := .trim, tag := 3#8, wanted := true }]
                         inFlight := some { head := .h0, table := .trim, segment := 0 } } }

theorem takes_of_queueing (v : Verb) (p : Packet) (s : State) (r : s.control.resetInput = false) (i : s.loader.state = .idle)
    (c : s.control.state = .ready) (verb : verbOf p.header.verb = some v) (form : formCorrect v p = true) :
    Takes v p [] (queueing p s) := ⟨r, i, c, rfl, verb, form⟩

theorem witness_OccupiedOrUnreadyTakesAreRefused :
    (Takes .start startPacket [] (queueing startPacket (filling none)) ∧
      Takes .start (packet 0x21#8 1#8 0x84#8 []) [] (queueing (packet 0x21#8 1#8 0x84#8 []) (filling none)) ∧
      HeadId.h2 ∈ packetHeads (packet 0x21#8 1#8 0x84#8 []) ∧ ((filling none).heads.get .h2).state ≠ .parked) ∧
    (Takes .setTiming timingPacket [] (queueing timingPacket (faulted .strict 0)) ∧ packetHeads timingPacket = [.h0] ∧
      ((faulted .strict 0).heads.get .h0).state = .parked ∧ (faulted .strict 0).fault.guard = .strict ∧
      (faulted .strict 0).fault.entry ≠ none) ∧
    (Takes .commit commitPacket [] (queueing commitPacket (faulted .strict 0)) ∧
      packetHeads commitPacket = [.h0] ∧ setTables (tableSetOf (byteAt commitPacket.body 0)) = [.trim]) ∧
    (let s := withHead .h0 (fun h => { h with armed := some trimCommit }) unit
     Takes .commit commitPacket [] (queueing commitPacket s) ∧ s.fault.entry = none ∧ (s.heads.get .h0).armed ≠ none ∧
       Takes .sync syncPacket [] (queueing syncPacket s) ∧ (tableSetOf (byteAt syncPacket.body 0)).get .trim = true ∧
       shadowState s .h0 .trim = .armed) ∧
    (Takes .commit commitPacket [] (queueing commitPacket stale) ∧ (stale.heads.get .h0).armed = none ∧
      shadowState stale .h0 .trim = .stale) ∧
    (Takes .writeTable writePacket [] (queueing writePacket syncing) ∧ tableOf (natAt writePacket.body 0) = some .trim ∧
      natAt writePacket.body 2 < segmentCount (syncing.heads.get .h0).timing .trim ∧
      natAt writePacket.body 3 = entryCount (syncing.heads.get .h0).timing .trim (natAt writePacket.body 2) ∧
      shadowState syncing .h0 .trim = .syncing) := by
  unfold Takes
  refine ⟨?_, ?_, ?_, ?_, ?_, ?_⟩ <;> decide +kernel

/-- A SET-TIMING packet of a width that is not a multiple of 8, and one of a mesh that does not fit. -/
def badTiming (width : Nat) (k : Byte) : Packet :=
  packet 0x20#8 1#8 0x81#8
    (natBytes2 width ++ natBytes2 128 ++ [k, 6#8] ++ natBytes2 0 ++ natBytes2 4096 ++ natBytes2 16667 ++
      natBytes2 0 ++ natBytes2 0 ++ natBytes2 64 ++ natBytes2 64)

theorem witness_ArgumentsOutsideTheirRangeAreRefused :
    (let p : Packet := { timingPacket with header := { timingPacket.header with flags := 0x83#8 } }
     Takes .setTiming p [] (queueing p unit) ∧ packetHeads p = [.h0, .h1]) ∧
    (Takes .setTiming (badTiming 257 7#8) [] (queueing (badTiming 257 7#8) unit) ∧
      packetHeads (badTiming 257 7#8) = [.h0] ∧ (unit.heads.get .h0).state = .parked ∧ unit.fault.entry = none ∧
      timingInRange (readTiming (badTiming 257 7#8).body) = false) ∧
    (Takes .setTiming (badTiming 520 4#8) [] (queueing (badTiming 520 4#8) unit) ∧
      timingInRange (readTiming (badTiming 520 4#8).body) = true ∧ meshFits (readTiming (badTiming 520 4#8).body) = false) ∧
    (let p := packet 0x23#8 1#8 0x81#8 ([4#8, 0#8, 1#8, 9#8] ++ List.replicate 18 0#8)
     Takes .writeTable p [] (queueing p unit) ∧ tableOf (natAt p.body 0) = some .trim ∧
       segmentCount (unit.heads.get .h0).timing .trim ≤ natAt p.body 2) ∧
    (let p := packet 0x24#8 1#8 0x81#8 [5#8, 0#8, 0#8]
     Takes .readTable p [] (queueing p unit) ∧ tableOf (natAt p.body 0) = none) ∧
    (let none' (verb : Byte) (rest : List Byte) := packet verb 1#8 0x81#8 (0#8 :: rest)
     Takes .sync (none' 0x25#8 []) [] (queueing (none' 0x25#8 []) unit) ∧
       Takes .commit (none' 0x26#8 [0#8, 0#8]) [] (queueing (none' 0x26#8 [0#8, 0#8]) unit) ∧
       Takes .cancel (none' 0x27#8 []) [] (queueing (none' 0x27#8 []) unit) ∧ setTables (tableSetOf 0#8) = []) ∧
    (let p := packet 0x11#8 1#8 0x80#8 [0#8, 1#8, 15#8]
     Takes .setAccept p [] (queueing p unit) ∧ (p.body.drop 2).take (natAt p.body 1) = [15#8] ∧ (15#8).toNat < 16) := by
  unfold Takes
  refine ⟨?_, ?_, ?_, ?_, ?_, ?_, ?_⟩ <;> decide +kernel

theorem witness_write_of_no_table_or_form :
    (let p := packet 0x23#8 1#8 0x81#8 [5#8, 0#8, 0#8, 0#8]
     Takes .writeTable p [] (queueing p unit) ∧ tableOf (natAt p.body 0) = none) ∧
    (let p := packet 0x23#8 1#8 0x81#8 [1#8, 2#8, 0#8, 0#8]
     Takes .writeTable p [] (queueing p unit) ∧ tableOf (natAt p.body 0) = some .blend ∧ 1 < natAt p.body 1) := by
  unfold Takes; decide +kernel

theorem witness_DiscoverNumbersUnit (hop flag : Byte) :
    Takes .discover (packet 0x10#8 1#8 0x80#8 [hop, flag]) [] (taking (packet 0x10#8 1#8 0x80#8 [hop, flag])) ∧
      (packet 0x10#8 1#8 0x80#8 [hop, flag]).header.target = 0xFF#8 ∧
      byteAt (packet 0x10#8 1#8 0x80#8 [hop, flag]).body 0 = hop ∧ byteAt (packet 0x10#8 1#8 0x80#8 [hop, flag]).body 1 = flag :=
  ⟨takes_of_taking _ _ rfl rfl, rfl, rfl, rfl⟩

theorem witness_discover_hop_bounds : (15#8).toNat ≤ 15 ∧ 15 < (16#8).toNat := by decide

/-- A SET-ACCEPT packet of one address. -/
def acceptPacket (action address : Byte) : Packet := packet 0x11#8 1#8 0x80#8 [action, 1#8, address]

theorem witness_SetAcceptChangesGroups :
    (Takes .setAccept (acceptPacket 0#8 16#8) [] (taking (acceptPacket 0#8 16#8)) ∧ AddressesLegal (taking (acceptPacket 0#8 16#8)).filter) ∧
    (Takes .setAccept (acceptPacket 1#8 254#8) [] (taking (acceptPacket 1#8 254#8))) ∧
    (let s : State := { taking (acceptPacket 0#8 254#8) with
       filter := { hop := none, groups := (List.range 32).map fun i => byteOf (16 + i) } }
     Takes .setAccept (acceptPacket 0#8 254#8) [] s ∧ s.filter.groups.length = 32 ∧ 254#8 ∉ s.filter.groups) := by
  refine ⟨⟨takes_of_taking _ _ (by decide) (by decide), ?_⟩, takes_of_taking _ _ (by decide) (by decide),
    ⟨rfl, rfl, rfl, rfl, by decide, by decide⟩, by decide +kernel, by decide +kernel⟩
  refine ⟨fun h e => ?_, by decide, fun g m => (List.not_mem_nil m).elim, List.Pairwise.nil⟩
  cases e
  decide

theorem witness_SettingVerbsSetTheirValue :
    (Takes .setLink (packet 0x12#8 1#8 0x80#8 [0#8, 7#8]) [] (taking (packet 0x12#8 1#8 0x80#8 [0#8, 7#8]))) ∧
    (Takes .setIntake (packet 0x13#8 1#8 0x80#8 [1#8]) [] (taking (packet 0x13#8 1#8 0x80#8 [1#8])) ∧
      Takes .setIntake (packet 0x13#8 1#8 0x80#8 [2#8]) [] (taking (packet 0x13#8 1#8 0x80#8 [2#8]))) ∧
    (Takes .setGuard (packet 0x14#8 1#8 0x80#8 [1#8]) [] (taking (packet 0x14#8 1#8 0x80#8 [1#8])) ∧
      Takes .setGuard (packet 0x14#8 1#8 0x80#8 [2#8]) [] (taking (packet 0x14#8 1#8 0x80#8 [2#8]))) ∧
    (Takes .setReturn (packet 0x15#8 1#8 0x80#8 [2#8]) [] (taking (packet 0x15#8 1#8 0x80#8 [2#8])) ∧
      Takes .setReturn (packet 0x15#8 1#8 0x80#8 [3#8]) [] (taking (packet 0x15#8 1#8 0x80#8 [3#8]))) ∧
    (natAt [1#8] 0 ≤ 1 ∧ 1 < natAt [2#8] 0 ∧ natAt [2#8] 0 ≤ 2 ∧ 2 < natAt [3#8] 0) := by
  unfold Takes; decide +kernel

theorem witness_ClearFaultClearsNamedItems :
    (Takes .clearFault (packet 0x16#8 1#8 0x80#8 [15#8]) [] (taking (packet 0x16#8 1#8 0x80#8 [15#8])) ∧ (15#8).toNat ≤ 15) ∧
    (Takes .clearFault (packet 0x16#8 1#8 0x80#8 [16#8]) [] (taking (packet 0x16#8 1#8 0x80#8 [16#8])) ∧ 15 < (16#8).toNat) := by
  unfold Takes; decide +kernel

/-- `unit` with the five shadow states on H0's tables, MESH ARMED to TRIM STALE, and a tagged commit. -/
def everyShadow : State :=
  let x := withHead .h0 (fun h => { h with
    armed := some { trimCommit with tables := tableSetOf 1#8, frameTag := some 5#8 }
    pairs := { h.pairs with encode := { h.pairs.encode with coverage := [63] }
                            trim := { h.pairs.trim with coverage := [] } } }) unit
  { x with copy := { jobs := [{ head := .h0, table := .blend, tag := 2#8, wanted := true }], inFlight := none }
           loader := { x.loader with lastRefusal := some { verb := 1#8, tag := 2#8, outcome := .badArg, frame := 3#8 } } }

theorem witness_ReadStatusReportsAndClearsFlags :
    (Takes .readStatus statusPacket [] (taking statusPacket) ∧ statusPacket.header.flags.getLsbD 7 = true ∧
      confinement (taking statusPacket) ≠ .mute) ∧
    (Takes .readStatus (packet 0x17#8 1#8 0#8 []) [] (taking (packet 0x17#8 1#8 0#8 [])) ∧
      (packet 0x17#8 1#8 0#8 []).header.flags.getLsbD 7 = false) ∧
    (unit.fault.entry = none ∧ (faulted .strict 0).fault.entry.isSome = true ∧ unit.loader.lastRefusal = none ∧
      everyShadow.loader.lastRefusal.isSome = true ∧ (everyShadow.heads.get .h1).armed = none) ∧
    (allTables.map (shadowState everyShadow .h0) = [.armed, .syncing, .ready, .part, .stale]) := by
  unfold Takes; decide +kernel

theorem witness_StartMovesParkedHeads (l : LinkState) :
    Takes .start startPacket [] (queueing startPacket (linked l)) ∧ packetHeads startPacket ≠ [] ∧
      (∀ h ∈ packetHeads startPacket, ((queueing startPacket (linked l)).heads.get h).state = .parked) ∧
      (queueing startPacket (linked l)).receiver.state = l :=
  ⟨takes_of_queueing _ _ _ rfl rfl rfl (by decide) (by decide), by decide, fun h _ => by cases h <;> rfl, rfl⟩

/-- `unit` with H0 in PRIMING under an untagged commit, H1 in RUN with lines owed, H2 in FILL and H3 parked. -/
def mixed : State :=
  withHead .h0 (fun h => { h with state := .priming, armed := some trimCommit })
    (withHead .h1 (fun h => { h with state := .run, nextLine := 1079 }) (filling none))

theorem witness_StopParksOrMarksHeads :
    (Takes .stop stopPacket [] (queueing stopPacket mixed) ∧ packetHeads stopPacket ≠ []) ∧
    ((mixed.heads.get .h0).state = .priming ∧ (mixed.heads.get .h0).armed = some trimCommit ∧ trimCommit.frameTag = none) ∧
    ((mixed.heads.get .h1).state = .run ∧ (mixed.heads.get .h1).stopPending = false ∧
      (mixed.heads.get .h1).nextLine < (mixed.heads.get .h1).timing.height) ∧
    ((mixed.heads.get .h2).state = .fill ∧ (mixed.heads.get .h2).armed = none) ∧ (mixed.heads.get .h3).state = .parked := by
  unfold Takes; decide +kernel

/-- `unit` with H0 armed for TRIM, a MESH job of H0 whose copy is in flight, and a TRIM job of another head behind it. -/
def retiming : State :=
  let x := withHead .h0 (fun h => { h with armed := some trimCommit }) unit
  { x with copy := { jobs := [{ head := .h0, table := .mesh, tag := 2#8, wanted := true },
                              { head := .h1, table := .trim, tag := 3#8, wanted := true }]
                     inFlight := some { head := .h0, table := .mesh, segment := 0 } } }

theorem witness_SetTimingInstallsTimingThenGenerates :
    (Takes .setTiming timingPacket [] (queueing timingPacket unit) ∧ packetHeads timingPacket = [.h0] ∧
      (unit.heads.get .h0).state = .parked ∧ unit.fault.entry = none ∧ timingInRange (readTiming timingPacket.body) = true ∧
      meshFits (readTiming timingPacket.body) = true ∧ blendFits (readTiming timingPacket.body) = true ∧
      (unit.heads.get .h0).armed = none) ∧
    (Takes .setTiming timingPacket [] (queueing timingPacket retiming) ∧ (retiming.heads.get .h0).state = .parked ∧
      (retiming.heads.get .h0).armed = some trimCommit ∧ trimCommit.tables.get .trim = true ∧
      hasJob retiming.copy.jobs .h0 .trim = false ∧ coverageFull ((retiming.heads.get .h0).pairs.get .trim) = true ∧
      retiming.copy.inFlight = some { head := .h0, table := .mesh, segment := 0 } ∧
      hasJob [{ head := .h1, table := .trim, tag := 3#8, wanted := true }] .h0 .mesh = false) ∧
    (let s : State := { unit with loader := { unit.loader with state := .generating timingPacket } }
     s.control.resetInput = false ∧ s.loader.state = .generating timingPacket) := by
  unfold Takes; decide +kernel

/-- A MESH commit that SET-TIMING withdraws leaves its shadow READY at once, although the new timing has more rows (R77, R85). -/
theorem test_withdrawn_shadow_ready_at_take :
    let armed : State := { queueing (badTiming 256 4#8) unit with
      heads := .ofFn fun _ => { smallHead with armed := some { trimCommit with tables := tableSetOf 1#8 } } }
    shadowState armed .h0 .mesh = .armed ∧ shadowState (after .setTiming armed) .h0 .mesh = .ready ∧
      segmentCount (armed.heads.get .h0).timing .mesh < segmentCount (readTiming (badTiming 256 4#8).body) .mesh := by
  decide +kernel

theorem witness_WriteTableStoresSegmentAtCompletion :
    (Takes .writeTable writePacket [] (queueing writePacket unit) ∧ packetHeads writePacket = [.h0] ∧
      tableOf (natAt writePacket.body 0) = some .trim ∧
      natAt writePacket.body 2 < segmentCount (unit.heads.get .h0).timing .trim ∧
      natAt writePacket.body 3 = entryCount (unit.heads.get .h0).timing .trim (natAt writePacket.body 2) ∧
      shadowState unit .h0 .trim = .ready) ∧
    (let s : State := { unit with loader := { unit.loader with state := .writing writePacket } }
     s.control.resetInput = false ∧ s.loader.state = .writing writePacket ∧ (packetMask writePacket).get .h0 = true ∧
       (packetMask writePacket).get .h1 = false) := by
  unfold Takes; decide +kernel

/-- A mesh point of the most negative sx and the largest sy that its bytes carry is stored clamped (R20, R196). -/
theorem test_point_clamped :
    readSegment .mesh false 1 1 [0x80#8, 0#8, 0#8, 0x7F#8, 0xFF#8, 0xFF#8, 0xFF#8] =
      .points [{ sx := -131072, sy := 131071, blank := true }] := by decide +kernel

theorem witness_ReadTableReturnsStoredSegment :
    ∀ bank : Byte, bank = 0#8 ∨ bank = 1#8 → Takes .readTable (readPacket bank) [] (queueing (readPacket bank) unit) ∧
      packetHeads (readPacket bank) = [.h0] ∧ tableOf (natAt (readPacket bank).body 0) = some .trim ∧
      natAt (readPacket bank).body 1 = bank.toNat ∧
      natAt (readPacket bank).body 2 < segmentCount (unit.heads.get .h0).timing .trim ∧
      ((unit.heads.get .h0).pairs.get .trim).live[0]? =
        some (.trim { gain := ⟨4096, 4096, 4096⟩, offset := ⟨0, 0, 0⟩, fill := ⟨0, 0, 0⟩ }) ∧
      ((unit.heads.get .h0).pairs.get .trim).shadow[0]? =
        some (.trim { gain := ⟨4096, 4096, 4096⟩, offset := ⟨0, 0, 0⟩, fill := ⟨0, 0, 0⟩ }) :=
  by
  rintro bank (rfl | rfl) <;> (unfold Takes; decide +kernel)

theorem witness_SyncQueuesJobsForUncurrentPairs :
    (Takes .sync syncPacket [] (queueing syncPacket stale) ∧ packetHeads syncPacket = [.h0] ∧
      setTables (tableSetOf (byteAt syncPacket.body 0)) = [.trim] ∧ shadowState stale .h0 .trim = .stale ∧
      stale.copy.inFlight = none) ∧
    (let s : State := { stale with copy :=
       { jobs := [{ head := .h1, table := .mesh, tag := 0#8, wanted := false }]
         inFlight := some { head := .h1, table := .mesh, segment := 0 } } }
     Takes .sync syncPacket [] (queueing syncPacket s) ∧ shadowState s .h0 .trim = .stale ∧
       hasJob s.copy.jobs .h1 .mesh = true) := by
  unfold Takes; decide +kernel

theorem witness_SegmentCopyBringsShadowUpToDate :
    ∃ data, syncing.control.resetInput = false ∧
      syncing.copy.inFlight = some { head := .h0, table := .trim, segment := 0 } ∧
      syncing.copy.jobs.filter (fun x => x.head == .h0 && x.table == .trim) =
        [{ head := .h0, table := .trim, tag := 3#8, wanted := true }] ∧
      ((syncing.heads.get .h0).pairs.get .trim).live[0]? = some data :=
  ⟨_, rfl, rfl, by decide, rfl⟩

theorem witness_CommitArmsEveryMaskedHead (tag : Byte) (either : tag = 0#8 ∨ tag = 1#8) :
    let p := packet 0x26#8 1#8 0x85#8 [16#8, tag, 9#8]
    let s := queueing p (filling none)
    Takes .commit p [] s ∧ packetHeads p = [.h0, .h2] ∧ setTables (tableSetOf (byteAt p.body 0)) = [.trim] ∧
      s.fault.entry = none ∧ (∀ h ∈ packetHeads p, (s.heads.get h).armed = none) ∧
      (s.heads.get .h0).state = .parked ∧ (s.heads.get .h2).state = .fill ∧ byteAt p.body 1 = tag :=
  by rcases either with rfl | rfl <;> (unfold Takes; decide +kernel)

/-- The three points of section 2.8's example under H2's default timing, and its count of the identity mesh. -/
theorem test_audit :
    let bank (sy : Int) : Bank := .header (clampHeader 0 0 0 0 .extend) ::
      List.replicate 6 (.points (List.replicate 4 { sx := 0, sy := sy, blank := false }))
    [22400, 22410, 18300].map (fun sy => outOfReach (defaultTiming .h2) (bank sy) 3 5) = [false, true, true] ∧
      reachAudit (defaultTiming .h0) (defaultBank .h0 .mesh) = 31 := by decide +kernel

theorem witness_commit_shadows_ready :
    shadowState (filling none) .h0 .trim = .ready ∧ shadowState (filling none) .h2 .trim = .ready := by decide +kernel

theorem witness_CancelWithdrawsCommitsAndJobs :
    (Takes .cancel cancelPacket [] (queueing cancelPacket syncing) ∧ packetHeads cancelPacket = [.h0] ∧
      setTables (tableSetOf (byteAt cancelPacket.body 0)) = [.trim] ∧
      syncing.copy.inFlight = some { head := .h0, table := .trim, segment := 0 }) ∧
    (Takes .cancel cancelPacket [] (queueing cancelPacket retiming) ∧ (packetMask cancelPacket).get .h0 = true ∧
       (retiming.heads.get .h0).armed = some trimCommit ∧ trimCommit.tables.get .trim = true ∧
       hasJob retiming.copy.jobs .h0 .mesh = true) ∧
    (Takes .cancel cancelPacket [] (queueing cancelPacket unit) ∧ unit.copy.jobs = []) := by
  unfold Takes; decide +kernel

/-- CANCEL of a commit: the commit's CANCELLED answer, then CANCEL's own (R104, R105). -/
theorem test_cancel_answers :
    (after .cancel (queueing cancelPacket retiming)).answers.own.map (fun a => (a.verb, a.tag, a.outcome, a.body)) =
      [(0x26#8, 7#8, outcomeByte .cancelled, []), (0x27#8, 1#8, outcomeByte .cancelled, [1#8, 0#8])] := by decide +kernel

theorem witness_LiveBanksChangeOnlyBySwap :
    ∃ t, exec .commit (queueing commitPacket unit) = .next t ∧ (∀ b, Instr.commit ≠ .powerOnReset b) ∧
      Instr.commit ≠ .initializationCompletion ∧ Instr.commit ≠ .generationCompletion :=
  ⟨_, rfl, fun _ => by simp, by decide, by decide⟩

theorem witness_CountsAndAddressesStayLegal :
    let s := queued 4 .overwrite
    (StoresBounded s ∧ HealthLegal s.health ∧ AddressesLegal s.filter) ∧ ∃ t, step s = .next t :=
  ⟨⟨⟨by decide, by decide, by decide, by decide, by decide, fun _ e => by cases e⟩, healthLegal_of_active 0 (by decide) false,
    fun _ e => by cases e; decide, by decide, fun _ m => (List.not_mem_nil m).elim, List.Pairwise.nil⟩, _, rfl⟩

/-- `unit` with one line of the frame completed and held. -/
def oneLine : State := { atLine 1 with ring := [{ number := 0, pixels := List.replicate 64 ⟨0, 0, 0⟩ }] }

theorem witness_RingHoldsCurrentFrameAlways :
    (ReceiverLegal oneLine.receiver ∧ RingHoldsFrame oneLine) ∧ ∃ t, step { oneLine with pending := [.lineCompletion []] } = .next t :=
  ⟨⟨by unfold ReceiverLegal; decide, by unfold RingHoldsFrame; decide +kernel⟩, _, rfl⟩

theorem witness_HeadsStayLegalAndFollowLink :
    let s := withHead .h0 (fun h => { h with state := .run }) unit
    ((∀ h, HeadLegal (s.heads.get h)) ∧ RunFollowsLink s) ∧ ∃ t, step s = .next t :=
  ⟨⟨fun h => by cases h <;> (unfold HeadLegal; decide +kernel), fun _ _ => .inl rfl⟩, _, rfl⟩

theorem witness_miss_counts_bounded :
    let s := withHead .h0 (fun h => { h with state := .run, nextLine := 3, missRunning := 3, missLatched := 1080 }) unit
    (∀ h, HeadLegal (s.heads.get h) ∧ MissCountsBounded (s.heads.get h)) ∧ ∃ t, step s = .next t :=
  ⟨fun h => by cases h <;> (unfold HeadLegal MissCountsBounded; decide +kernel), _, rfl⟩

theorem witness_ArmedShadowsStayWhollyCurrent :
    let s := withHead .h0 (fun h => { h with armed := some trimCommit }) unit
    (CommitsSound s ∧ QuietWhileInitializing s) ∧ ∃ t, step s = .next t :=
  ⟨⟨⟨fun h t => by cases h <;> cases t <;> decide +kernel, List.Pairwise.nil⟩, fun e => (by cases e)⟩, _, rfl⟩

/-- `unit` with TRIM alone loaded on every head. -/
def trimOnly : State :=
  let none' : Pair := { live := [], shadow := [], coverage := [] }
  let pairs : PerTable Pair :=
    { mesh := none', blend := none', decode := none', encode := none'
      trim := { live := defaultTrim, shadow := defaultTrim, coverage := [0] } }
  { unit with heads := .ofFn fun k => { resetHead k with pairs := pairs } }

theorem witness_EmittedCodesStayInRange :
    ((∀ h, HeadLegal (trimOnly.heads.get h)) ∧ TablesLegal trimOnly ∧ CodesLegal trimOnly) ∧ ∃ t, step trimOnly = .next t :=
  ⟨⟨fun h => by cases h <;> (unfold HeadLegal; decide +kernel),
    fun h t => by cases h <;> cases t <;> simp [trimOnly, PerHead.get, PerHead.ofFn, PerTable.get, segmentLegal, defaultTrim],
    fun h line m => by cases h <;> simp [trimOnly, unit, State.reset, PerHead.get, PerHead.ofFn] at m⟩, _, rfl⟩

/-- `unit` with a job for H0's ENCODE shadow, of which segment 5 alone is not current, and its copy in flight. -/
def copying : State :=
  let x := withHead .h0 (fun h => { h with
    pairs := { h.pairs with encode := { h.pairs.encode with coverage := (List.range 64).erase 5 } } }) unit
  { x with copy := { jobs := [{ head := .h0, table := .encode, tag := 2#8, wanted := true }]
                     inFlight := some { head := .h0, table := .encode, segment := 5 } }
           pending := [.segmentCopyCompletion] }

theorem witness_CopyEngineAndBankShapesStaySound :
    (CommitsSound copying ∧ QuietWhileInitializing copying ∧ LoaderSound copying ∧ CopySound copying ∧ BanksShaped copying) ∧
      ∃ t, step copying = .next t := by
  refine ⟨⟨⟨fun h t e => ?_, by simp [copying]⟩, fun e => (by cases e), ⟨fun p e => (by cases e), fun p e => (by cases e),
    fun p e => (by cases e), fun e => (by cases e)⟩, ⟨fun e => (by cases e), fun j rest e => ?_, fun j m => ?_⟩, fun h t _ => ?_⟩,
    _, rfl⟩
  · cases h <;> cases e
  · cases e
    exact ⟨5, rfl, by decide +kernel⟩
  · rw [show j = _ from List.mem_singleton.1 m]
    decide +kernel
  · have shaped := Laws.defaultBank_shaped h t
    cases h <;> cases t <;> refine ⟨shaped, shaped, ?_, ?_⟩ <;> decide +kernel

theorem witness_PresentedCarrierFollowsSourceCarrier :
    let s : State := { unit with outputs := { unit.outputs with thru := [.carrier true] }, pending := [.carrierLoss none] }
    CarrierPresented s ∧ ∃ t, step s = .next t := ⟨rfl, _, rfl⟩

end Sys2Proof.Tests
end

section
/-! Dispatch and steps, said once: which rule a verb's command runs, what a take can come to, and how an invariant of every
command is an invariant of every step. -/

namespace Sys2Proof.Proofs

open Sys2Proof.Machine Sys2Proof.Safety Sys2Proof.Laws

/-! ## The reset input -/

/-- An event with the reset input released has its own effect. -/
theorem whileReleased_of_released (f : State → State) {s : State} (released : s.control.resetInput = false) :
    whileReleased f s = f s := by simp [whileReleased, released]

/-- An event with the reset input asserted has none (assumption 5). -/
theorem whileReleased_of_asserted (f : State → State) {s : State} (asserted : s.control.resetInput = true) :
    whileReleased f s = s := by simp [whileReleased, asserted]

/-- What holds before an event and after its own effect holds after it, whatever the level of the reset input. -/
theorem whileReleased_induction {P : State → Prop} {f : State → State} {s : State} (unchanged : P s) (changed : P (f s)) :
    P (whileReleased f s) := by
  unfold whileReleased
  split
  · exact unchanged
  · exact changed

/-! ## Takes -/

/-- The command that takes the oldest queued packet as a verb. -/
def takeOf : Verb → Instr
  | .discover => .discover
  | .setAccept => .setAccept
  | .setLink => .setLink
  | .setIntake => .setIntake
  | .setGuard => .setGuard
  | .setReturn => .setReturn
  | .clearFault => .clearFault
  | .readStatus => .readStatus
  | .resetUnit => .resetUnit
  | .setTiming => .setTiming
  | .start => .start
  | .stop => .stop
  | .writeTable => .writeTable
  | .readTable => .readTable
  | .sync => .sync
  | .commit => .commit
  | .cancel => .cancel

/-- A verb's own rule. -/
def ruleOf : Verb → Packet → State → Verdict
  | .discover => ruleDiscover
  | .setAccept => ruleSetAccept
  | .setLink => ruleSetLink
  | .setIntake => ruleSetIntake
  | .setGuard => ruleSetGuard
  | .setReturn => ruleSetReturn
  | .clearFault => ruleClearFault
  | .readStatus => ruleReadStatus
  | .resetUnit => ruleResetUnit
  | .setTiming => ruleSetTiming
  | .start => ruleStart
  | .stop => ruleStop
  | .writeTable => ruleWriteTable
  | .readTable => ruleReadTable
  | .sync => ruleSync
  | .commit => ruleCommit
  | .cancel => ruleCancel

/-- A verb's command is the take of the oldest packet under the verb's own rule. -/
theorem exec_takeOf (v : Verb) (s : State) :
    exec (takeOf v) s = .next (whileReleased (takeVerb v (ruleOf v)) s) := by cases v <;> rfl

section Due
variable {v : Verb} {p : Packet} {rest : List Packet} {s : State}

/-- A due take of a verb that is not judged by its head mask does what the verb's rule carries out. -/
theorem exec_takeOf_of_carryOut {s' : State} (takes : Takes v p rest s) (unmasked : isHeadVerb v = false)
    (carry : ruleOf v p (afterTake rest s) = .carryOut s') : exec (takeOf v) s = .next s' := by
  rw [exec_takeOf, takeVerb_of_takes takes]
  simp [unmasked, carry]

/-- A due take of a verb that is not judged by its head mask is refused as the verb's rule refuses it. -/
theorem exec_takeOf_of_refuse {o : OutcomeCode} (takes : Takes v p rest s) (unmasked : isHeadVerb v = false)
    (refusal : ruleOf v p (afterTake rest s) = .refuse o) :
    exec (takeOf v) s = .next (refuseTake o p (afterTake rest s)) := by
  rw [exec_takeOf, takeVerb_of_takes takes]
  simp [unmasked, refusal]

end Due

/-- What holds of the state before a take, of each way to refuse the packet and of what its rule carries out, holds after the
take. -/
theorem takeVerb_induction {P : State → Prop} {v : Verb} {rule : Packet → State → Verdict} {s : State} (unchanged : P s)
    (badForm : ∀ p rest, P (refuseForm p (afterTake rest s))) (refused : ∀ o p rest, P (refuseTake o p (afterTake rest s)))
    (carriedOut : ∀ p rest s', rule p (afterTake rest s) = .carryOut s' → P s') : P (takeVerb v rule s) := by
  obtain same | ⟨p, rest, -, -, -, -, judged⟩ := takeVerb_cases v rule s
  · rwa [same]
  · rw [judged]
    obtain ⟨-, form⟩ | ⟨-, ⟨o, refusal⟩ | ⟨s', carry, result⟩⟩ := judge_cases v rule p (afterTake rest s)
    · rw [form]
      exact badForm p rest
    · rw [refusal]
      exact refused o p rest
    · rw [result]
      exact carriedOut p rest s' carry

/-- What holds before the take of an unknown verb and after its refusal for form holds after the take. -/
theorem takeUnknown_induction {P : State → Prop} {s : State} (unchanged : P s)
    (badForm : ∀ p rest, P (refuseForm p (afterTake rest s))) : P (takeUnknown s) := by
  unfold takeUnknown
  split
  · rename_i p s' due
    obtain ⟨-, -, rest, -, rfl⟩ := nextTake_eq_some due
    split
    · exact badForm p rest
    · exact unchanged
  · exact unchanged

/-- The take that ends an initialization is none, the refusal of an unknown verb, or a verb's take. -/
theorem takeOldest_cases (s : State) :
    takeOldest s = s ∨ takeOldest s = takeUnknown s ∨ ∃ v, takeOldest s = takeVerb v (ruleOf v) s := by
  unfold takeOldest
  split
  · exact .inl rfl
  · rename_i p s' due
    cases verb : verbOf p.header.verb with
    | none => exact .inr (.inl rfl)
    | some v => exact .inr (.inr ⟨v, by cases v <;> rfl⟩)

/-! ## Steps -/

/-- What a command keeps, and no change of the waiting commands touches, every step keeps. -/
theorem step_keeps {Inv : State → Prop} (queue : ∀ s rest, Inv s → Inv { s with pending := rest })
    (command : ∀ c s t, Inv s → exec c s = .next t → Inv t) : ∀ s t, Inv s → step s = .next t → Inv t := by
  intro s t inv run
  unfold step at run
  split at run
  · exact command _ _ _ (queue s _ inv) run
  · split at run
    · exact command _ _ _ inv run
    · cases run
      exact inv

end Sys2Proof.Proofs
end

section
/-! The link side of the unit, its receiver, ring and thru port: what each command can do to it, said once (chapter 1). -/

namespace Sys2Proof.Proofs

open Sys2Proof.Machine Sys2Proof.Safety Sys2Proof.Laws

/-- What the link events work on: the receiver, the line ring, and what the thru port has presented. -/
structure LinkSide where
  receiver : Receiver
  ring : List RingLine
  thru : List ThruItem

/-- The link side of a state. -/
def linkSide (s : State) : LinkSide := { receiver := s.receiver, ring := s.ring, thru := s.outputs.thru }

/-! ## Operations that leave the link side as it is -/

@[simp] theorem linkSide_afterTake (rest : List Packet) (s : State) : linkSide (afterTake rest s) = linkSide s := rfl

@[simp] theorem linkSide_answerPacket (p : Packet) (o : OutcomeCode) (body : List Byte) (s : State) :
    linkSide (answerPacket p o body s) = linkSide s := by
  rw [answerPacket_eq]
  rfl

@[simp] theorem linkSide_refuseTake (o : OutcomeCode) (p : Packet) (s : State) : linkSide (refuseTake o p s) = linkSide s := by
  rw [refuseTake_eq]
  rfl

@[simp] theorem linkSide_refuseForm (p : Packet) (s : State) : linkSide (refuseForm p s) = linkSide s := linkSide_refuseTake _ _ _

@[simp] theorem linkSide_answerSwaps (order : List HeadId) (runs : PerHead HeadRun) (s : State) :
    linkSide (answerSwaps order runs s) = linkSide s := by
  rw [answerSwaps_eq]
  rfl

@[simp] theorem linkSide_handToHeads (f : Head → HeadRun) (s : State) : linkSide (handToHeads f s) = linkSide s := by
  rw [handToHeads_eq]
  rfl

@[simp] theorem linkSide_runHeads (f : HeadId → Head → HeadRun) (s : State) : linkSide (runHeads f s) = linkSide s := by
  rw [runHeads_eq]
  rfl

@[simp] theorem linkSide_withdraw (h : HeadId) (s : State) : linkSide (withdraw h s) = linkSide s := by
  rw [withdraw_eq]
  rfl

@[simp] theorem linkSide_removeJob (h : HeadId) (s : State) (t : Table) : linkSide (removeJob h s t) = linkSide s := by
  rw [removeJob_eq]
  rfl

@[simp] theorem linkSide_resumeCopy (s : State) : linkSide (resumeCopy s) = linkSide s := by
  rw [resumeCopy_eq]
  rfl

@[simp] theorem linkSide_queuePacket (p : Packet) (s : State) : linkSide (queuePacket p s) = linkSide s := by
  rw [queuePacket_eq]
  rfl

/-- A fold of operations that leave the link side as it is leaves it as it is. -/
theorem linkSide_foldl {α : Type} (l : List α) (f : State → α → State) (kept : ∀ s a, linkSide (f s a) = linkSide s)
    (s : State) : linkSide (l.foldl f s) = linkSide s := by
  induction l generalizing s with
  | nil => rfl
  | cons a l ih => rw [List.foldl_cons, ih, kept]

@[simp] theorem linkSide_cancelHead (ts : TableSet) (s : State) (h : HeadId) : linkSide (cancelHead ts s h) = linkSide s := by
  rw [cancelHead, linkSide_foldl _ _ (fun s t => linkSide_removeJob h s t)]
  split
  · exact linkSide_withdraw h s
  · rfl

@[simp] theorem linkSide_beginGeneration (p : Packet) (h : HeadId) (s : State) :
    linkSide (beginGeneration p h s) = linkSide s := by
  rw [beginGeneration, linkSide_resumeCopy, linkSide_foldl _ _ (fun s t => linkSide_removeJob h s t), linkSide_withdraw]
  rfl

@[simp] theorem linkSide_fillTimerExpiry (h : HeadId) (s : State) : linkSide (fillTimerExpiry h s) = linkSide s := by
  unfold fillTimerExpiry
  split
  · exact linkSide_runHeads _ s
  · rfl

@[simp] theorem linkSide_writeCompletion (s : State) : linkSide (writeCompletion s) = linkSide s := by
  unfold writeCompletion
  split
  · dsimp only
    split
    · exact linkSide_answerPacket _ _ _ _
    · rfl
  · rfl

@[simp] theorem linkSide_generationCompletion (s : State) : linkSide (generationCompletion s) = linkSide s := by
  unfold generationCompletion
  split
  · split
    · exact linkSide_answerPacket _ _ _ _
    · rfl
  · rfl

@[simp] theorem linkSide_answerJob (j : SyncJob) (o : OutcomeCode) (s : State) : linkSide (answerJob j o s) = linkSide s := by
  rw [answerJob, generate_eq]
  rfl

@[simp] theorem linkSide_segmentCopyCompletion (s : State) : linkSide (segmentCopyCompletion s) = linkSide s := by
  unfold segmentCopyCompletion
  split
  · dsimp only
    split
    · exact linkSide_foldl _ _ (fun s j => linkSide_answerJob j .done s) _
    · rfl
  · rfl

@[simp] theorem linkSide_completeSend (held arrived : Bool) (s : State) :
    linkSide (completeSend held arrived s) = linkSide s := by
  unfold completeSend
  split
  · cases arrived <;> rfl
  · rfl

@[simp] theorem linkSide_finishInitialization (s : State) : linkSide (finishInitialization s) = linkSide s := by
  unfold finishInitialization
  split
  · exact linkSide_answerPacket _ _ _ _
  · rfl

/-- A good or failed packet is counted, reported and queued without a change of the link side. -/
@[simp] theorem linkSide_checkPacket (bytes : List Byte) (s : State) : linkSide (checkPacket bytes s) = linkSide s := by
  unfold checkPacket
  split
  · dsimp only
    split
    · exact linkSide_queuePacket _ _
    · rfl
  · rfl

/-! ## Takes -/

/-- The link side with another absence timeout. -/
def LinkSide.withTimeout (x : LinkSide) (ms : Nat) : LinkSide := { x with receiver := { x.receiver with timeout := ms } }

/-- What a take can do to the link side `x`: nothing, or set an absence timeout within its range (R7). -/
def SameButTimeout (x y : LinkSide) : Prop := y = x ∨ ∃ ms, 8 ≤ ms ∧ ms ≤ 250 ∧ y = x.withTimeout ms

theorem ruleSetLink_eq (p : Packet) (s : State) :
    ruleSetLink p s = doneWith p (natBytes2 (max 8 (min (natAt2 p.body 0) 250)))
      { s with receiver := { s.receiver with timeout := max 8 (min (natAt2 p.body 0) 250) } } := rfl

/-- What a verb's rule carries out leaves the link side as it is, SET-LINK's timeout apart (R7). -/
theorem ruleOf_linkSide {v : Verb} {p : Packet} {s s' : State} (notSetLink : v ≠ .setLink)
    (carry : ruleOf v p s = .carryOut s') : linkSide s' = linkSide s := by
  cases v with
  | setLink => exact absurd rfl notSetLink
  | discover =>
    simp only [ruleOf, ruleDiscover, doneWith] at carry
    split_ifs at carry <;> cases carry <;> exact linkSide_answerPacket _ _ _ _
  | setAccept =>
    simp only [ruleOf, ruleSetAccept, doneWith] at carry
    split_ifs at carry <;> cases carry <;> exact linkSide_answerPacket _ _ _ _
  | setIntake =>
    simp only [ruleOf, ruleSetIntake, doneWith] at carry
    split at carry <;> cases carry
    exact linkSide_answerPacket _ _ _ _
  | setGuard =>
    simp only [ruleOf, ruleSetGuard, doneWith] at carry
    split at carry <;> cases carry
    exact linkSide_answerPacket _ _ _ _
  | setReturn =>
    simp only [ruleOf, ruleSetReturn, doneWith] at carry
    split at carry <;> cases carry
    exact linkSide_answerPacket _ _ _ _
  | clearFault =>
    simp only [ruleOf, ruleClearFault, doneWith] at carry
    split at carry <;> cases carry
    exact linkSide_answerPacket _ _ _ _
  | readStatus =>
    simp only [ruleOf, ruleReadStatus, doneWith] at carry
    split at carry <;> cases carry
    · exact linkSide_answerPacket _ _ _ _
    · rfl
  | resetUnit =>
    cases carry
    rfl
  | setTiming =>
    simp only [ruleOf, ruleSetTiming] at carry
    split at carry
    · split_ifs at carry
      cases carry
      exact linkSide_beginGeneration _ _ _
    · cases carry
  | start =>
    simp only [ruleOf, ruleStart, doneWith] at carry
    split at carry <;> cases carry
    exact linkSide_answerPacket _ _ _ _
  | stop =>
    simp only [ruleOf, ruleStop, Verdict.carryOut.injEq] at carry
    subst carry
    split <;> simp <;> rfl
  | writeTable =>
    simp only [ruleOf, ruleWriteTable] at carry
    split at carry
    · cases carry
    · split_ifs at carry
      cases carry
      rfl
  | readTable =>
    simp only [ruleOf, ruleReadTable, doneWith] at carry
    split at carry
    · split at carry
      · cases carry
      · split_ifs at carry
        cases carry
        exact linkSide_answerPacket _ _ _ _
    · cases carry
  | sync =>
    simp only [ruleOf, ruleSync, doneWith] at carry
    split_ifs at carry
    cases carry
    rw [linkSide_answerPacket, linkSide_resumeCopy]
    rfl
  | commit =>
    simp only [ruleOf, ruleCommit] at carry
    split_ifs at carry
    cases carry
    rw [linkSide_runHeads, linkSide_answerPacket]
    rfl
  | cancel =>
    simp only [ruleOf, ruleCancel] at carry
    split_ifs at carry
    all_goals
      cases carry
      rw [linkSide_answerPacket, linkSide_resumeCopy, linkSide_foldl _ _ (linkSide_cancelHead _)]

/-- SET-LINK's rule sets a timeout within its range and leaves the rest of the link side as it is (R7). -/
theorem ruleSetLink_linkSide {p : Packet} {s s' : State} (carry : ruleSetLink p s = .carryOut s') :
    ∃ ms, 8 ≤ ms ∧ ms ≤ 250 ∧ linkSide s' = (linkSide s).withTimeout ms := by
  rw [ruleSetLink_eq, doneWith, Verdict.carryOut.injEq] at carry
  subst carry
  exact ⟨_, le_max_left _ _, by omega, linkSide_answerPacket _ _ _ _⟩

/-- A take leaves the link side as it is, or sets the absence timeout. -/
theorem takeVerb_linkSide (v : Verb) (s : State) : SameButTimeout (linkSide s) (linkSide (takeVerb v (ruleOf v) s)) := by
  refine takeVerb_induction (P := fun t => SameButTimeout (linkSide s) (linkSide t)) (.inl rfl) ?_ ?_ ?_
  · exact fun p rest => .inl (by simp)
  · exact fun o p rest => .inl (by simp)
  · intro p rest s' carry
    rw [← linkSide_afterTake rest s]
    by_cases setLink : v = .setLink
    · subst setLink
      exact .inr (ruleSetLink_linkSide carry)
    · exact .inl (ruleOf_linkSide setLink carry)

theorem takeUnknown_linkSide (s : State) : linkSide (takeUnknown s) = linkSide s :=
  takeUnknown_induction (P := fun t => linkSide t = linkSide s) rfl (by simp)

theorem initializationCompletion_linkSide (s : State) :
    SameButTimeout (linkSide s) (linkSide (initializationCompletion s)) := by
  unfold initializationCompletion
  split
  · obtain noTake | unknown | ⟨v, taken⟩ := takeOldest_cases (finishInitialization s)
    · exact .inl (by rw [noTake, linkSide_finishInitialization])
    · exact .inl (by rw [unknown, takeUnknown_linkSide, linkSide_finishInitialization])
    · simpa [taken] using takeVerb_linkSide v (finishInitialization s)
  · exact .inl rfl

/-! ## Every command -/

/-- The receiver as a frame start leaves it: LOCKED on the marker's frame number and clamped geometry (R3, R4). -/
def startedFrame (frame : Byte) (width height : Half) (r : Receiver) : Receiver :=
  { r with state := .locked, absenceTimer := none, frame := frame, width := clampNat width.toNat 64 4096,
           height := clampNat height.toNat 64 2304, lines := 0 }

/-- The receiver as a carrier up event leaves it (R2). -/
def raisedCarrier (r : Receiver) : Receiver :=
  { r with carrier := true, state := if r.state = .noSignal then .search else r.state }

/-- The receiver as a carrier loss leaves it (R2). -/
def lostCarrier (r : Receiver) : Receiver :=
  match r.state with
  | .search => { r with carrier := false, state := .noSignal }
  | .locked => startCoasting { r with carrier := false }
  | .coasting => { r with carrier := false }
  | .noSignal => { r with carrier := false }

/-- The receiver as an absence expiry leaves it (R6). -/
def endedLock (r : Receiver) : Receiver :=
  { r with state := if r.carrier then .search else .noSignal, absenceTimer := none, lines := 0 }

/-- Everything a command can do to the link side. -/
inductive LinkChange : LinkSide → LinkSide → Prop
  /-- Nothing. -/
  | kept (x : LinkSide) : LinkChange x x
  /-- A new absence timeout (R7). -/
  | timeoutSet (x : LinkSide) (ms : Nat) (low : 8 ≤ ms) (high : ms ≤ 250) : LinkChange x (x.withTimeout ms)
  /-- An item of the stream repeated and nothing else (R15). -/
  | repeated (x : LinkSide) (item : ThruItem) (stream : ∀ up, item ≠ .carrier up) :
    LinkChange x { x with thru := x.thru ++ [item] }
  /-- A carrier up, presented (R2, R16). -/
  | carrierRaised (x : LinkSide) :
    LinkChange x { x with receiver := raisedCarrier x.receiver, thru := x.thru ++ [.carrier true] }
  /-- A carrier loss, presented (R2, R16). -/
  | carrierLost (x : LinkSide) (broken : Option ItemPart) :
    LinkChange x { x with receiver := lostCarrier x.receiver, thru := x.thru ++ broken.toList.map .part ++ [.carrier false] }
  /-- A malformed marker in LOCKED (R5). -/
  | coasted (x : LinkSide) (bytes : List Byte) (locked : x.receiver.state = .locked) :
    LinkChange x { x with receiver := startCoasting x.receiver, thru := x.thru ++ [.marker bytes] }
  /-- A frame start (R4, R12). -/
  | frameStarted (x : LinkSide) (frame : Byte) (width height : Half) :
    LinkChange x { receiver := startedFrame frame width height x.receiver, ring := [],
                   thru := x.thru ++ [.marker (encodeMarker frame width height)] }
  /-- A line completed (R10, R11). -/
  | lineCompleted (x : LinkSide) (pixels : List Pixel) (locked : x.receiver.state = .locked)
      (owed : x.receiver.lines < x.receiver.height) :
    LinkChange x { receiver := { x.receiver with lines := x.receiver.lines + 1 }
                   ring := ringPush x.ring { number := x.receiver.lines, pixels := shapeLine x.receiver.width pixels }
                   thru := x.thru ++ [.line pixels] }
  /-- An absence expiry (R6). -/
  | lockEnded (x : LinkSide) : LinkChange x { x with receiver := endedLock x.receiver, ring := [] }
  /-- A power-on reset (R183). -/
  | powerOn (x : LinkSide) (broken : Option ItemPart) :
    LinkChange x { receiver := State.reset.receiver, ring := []
                   thru := if x.receiver.carrier then x.thru ++ broken.toList.map .part ++ [.carrier false] else x.thru }

theorem LinkChange.of_eq {x y : LinkSide} (same : y = x) : LinkChange x y := same ▸ .kept x

theorem LinkChange.of_sameButTimeout {x y : LinkSide} (change : SameButTimeout x y) : LinkChange x y := by
  obtain rfl | ⟨ms, low, high, rfl⟩ := change
  · exact .kept y
  · exact .timeoutSet x ms low high

theorem carrierUp_linkChange (s : State) : LinkChange (linkSide s) (linkSide (carrierUp s)) := by
  unfold carrierUp
  split
  · exact .kept _
  · exact .carrierRaised (linkSide s)

theorem carrierLoss_linkChange (broken : Option ItemPart) (s : State) :
    LinkChange (linkSide s) (linkSide (carrierLoss broken s)) := by
  unfold carrierLoss
  split
  · exact .carrierLost (linkSide s) broken
  · exact .kept _

theorem powerOn_linkChange (broken : Option ItemPart) (s : State) :
    LinkChange (linkSide s) (linkSide (powerOn broken s)) := by
  have thru : (powerOn broken s).outputs.thru =
      if s.receiver.carrier then s.outputs.thru ++ broken.toList.map .part ++ [.carrier false] else s.outputs.thru :=
    apply_ite Outputs.thru _ _ _
  rw [show linkSide (powerOn broken s) = ⟨State.reset.receiver, [], (powerOn broken s).outputs.thru⟩ from rfl, thru]
  exact .powerOn (linkSide s) broken

theorem releaseReset_linkChange (carrier : Bool) (s : State) :
    LinkChange (linkSide s) (linkSide (releaseReset carrier s)) := by
  unfold releaseReset
  split
  · cases carrier with
    | true => exact carrierUp_linkChange { s with control := { s.control with resetInput := false } }
    | false => exact .kept _
  · exact .kept _

theorem absenceExpiry_linkChange (s : State) : LinkChange (linkSide s) (linkSide (absenceExpiry s)) := by
  unfold absenceExpiry
  split
  · rw [linkSide_handToHeads]
    exact .lockEnded (linkSide s)
  · exact .kept _

theorem frameStart_linkChange (frame : Byte) (width height : Half) (s : State) :
    LinkChange (linkSide s) (linkSide (frameStart frame width height s)) := by
  unfold frameStart
  split
  · exact .kept _
  · rw [linkSide_handToHeads]
    exact .frameStarted (linkSide s) frame width height

theorem malformedMarker_linkChange (bytes : List Byte) (s : State) :
    LinkChange (linkSide s) (linkSide (malformedMarker bytes s)) := by
  unfold malformedMarker
  split
  · exact .kept _
  · rename_i locked
    exact .coasted (linkSide s) bytes locked
  · exact .repeated (linkSide s) _ (by simp)
  · exact .repeated (linkSide s) _ (by simp)

theorem lineCompletion_linkChange (pixels : List Pixel) (s : State) :
    LinkChange (linkSide s) (linkSide (lineCompletion pixels s)) := by
  unfold lineCompletion
  split
  · exact .kept _
  · dsimp only
    split
    · rename_i due
      rw [linkSide_handToHeads]
      exact .lineCompleted (linkSide s) pixels due.1 due.2
    · exact .repeated (linkSide s) _ (by simp)

theorem packetArrival_linkChange (bytes : List Byte) (s : State) :
    LinkChange (linkSide s) (linkSide (packetArrival bytes s)) := by
  unfold packetArrival
  split
  · exact .kept _
  · exact .repeated (linkSide s) _ (by simp)
  · exact .repeated (linkSide s) _ (by simp)
  · rw [linkSide_checkPacket]
    exact .repeated (linkSide s) _ (by simp)

theorem whileReleased_linkChange {f : State → State} {s : State} (change : LinkChange (linkSide s) (linkSide (f s))) :
    LinkChange (linkSide s) (linkSide (whileReleased f s)) :=
  whileReleased_induction (P := fun t => LinkChange (linkSide s) (linkSide t)) (.kept _) change

theorem exec_takeOf_linkChange {v : Verb} {s t : State} (run : exec (takeOf v) s = .next t) :
    LinkChange (linkSide s) (linkSide t) := by
  rw [exec_takeOf] at run
  cases run
  exact whileReleased_linkChange (.of_sameButTimeout (takeVerb_linkSide v s))

/-- Every command changes the link side in one of the ways of `LinkChange`. -/
theorem exec_linkChange {c : Instr} {s t : State} (run : exec c s = .next t) : LinkChange (linkSide s) (linkSide t) := by
  cases c with
  | powerOnReset broken => cases run; exact powerOn_linkChange broken s
  | resetInputRelease carrier => cases run; exact releaseReset_linkChange carrier s
  | initializationCompletion =>
    cases run
    exact whileReleased_linkChange (.of_sameButTimeout (initializationCompletion_linkSide s))
  | carrierUp => cases run; exact whileReleased_linkChange (carrierUp_linkChange s)
  | carrierLoss broken => cases run; exact whileReleased_linkChange (carrierLoss_linkChange broken s)
  | frameStart f w h => cases run; exact whileReleased_linkChange (frameStart_linkChange f w h s)
  | malformedMarker bytes => cases run; exact whileReleased_linkChange (malformedMarker_linkChange bytes s)
  | lineCompletion pixels => cases run; exact whileReleased_linkChange (lineCompletion_linkChange pixels s)
  | packetArrival bytes => cases run; exact whileReleased_linkChange (packetArrival_linkChange bytes s)
  | absenceExpiry => cases run; exact whileReleased_linkChange (absenceExpiry_linkChange s)
  | fillTimerExpiry h => cases run; exact whileReleased_linkChange (.of_eq (linkSide_fillTimerExpiry h s))
  | writeCompletion => cases run; exact whileReleased_linkChange (.of_eq (linkSide_writeCompletion s))
  | generationCompletion => cases run; exact whileReleased_linkChange (.of_eq (linkSide_generationCompletion s))
  | segmentCopyCompletion => cases run; exact whileReleased_linkChange (.of_eq (linkSide_segmentCopyCompletion s))
  | sendStart => cases run; exact whileReleased_linkChange (.kept _)
  | sendCompletion held arrived => cases run; exact whileReleased_linkChange (.of_eq (linkSide_completeSend held arrived s))
  | relayArrival a => cases run; exact whileReleased_linkChange (.kept _)
  | holdBackRelease asserted => cases run; exact .kept _
  | unknownVerb => cases run; exact whileReleased_linkChange (.of_eq (takeUnknown_linkSide s))
  | discover => exact exec_takeOf_linkChange (v := .discover) run
  | setAccept => exact exec_takeOf_linkChange (v := .setAccept) run
  | setLink => exact exec_takeOf_linkChange (v := .setLink) run
  | setIntake => exact exec_takeOf_linkChange (v := .setIntake) run
  | setGuard => exact exec_takeOf_linkChange (v := .setGuard) run
  | setReturn => exact exec_takeOf_linkChange (v := .setReturn) run
  | clearFault => exact exec_takeOf_linkChange (v := .clearFault) run
  | readStatus => exact exec_takeOf_linkChange (v := .readStatus) run
  | resetUnit => exact exec_takeOf_linkChange (v := .resetUnit) run
  | setTiming => exact exec_takeOf_linkChange (v := .setTiming) run
  | start => exact exec_takeOf_linkChange (v := .start) run
  | stop => exact exec_takeOf_linkChange (v := .stop) run
  | writeTable => exact exec_takeOf_linkChange (v := .writeTable) run
  | readTable => exact exec_takeOf_linkChange (v := .readTable) run
  | sync => exact exec_takeOf_linkChange (v := .sync) run
  | commit => exact exec_takeOf_linkChange (v := .commit) run
  | cancel => exact exec_takeOf_linkChange (v := .cancel) run

end Sys2Proof.Proofs
end

section
/-! The receiver and the line ring at every step (R1 to R3, R6, R7, R11, R12), and the carrier the thru port presents (R16). -/

namespace Sys2Proof.Proofs

open Sys2Proof.Machine Sys2Proof.Safety

/-! ## The receiver stays legal -/

theorem raisedCarrier_legal {r : Receiver} (legal : ReceiverLegal r) : ReceiverLegal (raisedCarrier r) := by
  obtain ⟨timer, noSignal, search, settings⟩ := legal
  refine ⟨?_, ?_, fun _ => rfl, settings⟩
  · cases state : r.state <;> simp_all [raisedCarrier]
  · cases state : r.state <;> simp [raisedCarrier, state]

theorem startCoasting_legal {r : Receiver} (legal : ReceiverLegal r) : ReceiverLegal (startCoasting r) := by
  obtain ⟨-, -, -, settings⟩ := legal
  exact ⟨by simp [startCoasting], by simp [startCoasting], by simp [startCoasting], settings⟩

theorem lostCarrier_legal {r : Receiver} (legal : ReceiverLegal r) : ReceiverLegal (lostCarrier r) := by
  obtain ⟨timer, noSignal, search, settings⟩ := legal
  cases state : r.state <;> simp only [lostCarrier, state]
  case locked =>
    exact ⟨by simp [startCoasting], by simp [startCoasting], by simp [startCoasting], settings⟩
  all_goals exact ⟨by simp_all, fun _ => rfl, by simp_all, settings⟩

theorem startedFrame_legal {r : Receiver} (frame : Byte) (width height : Half) (legal : ReceiverLegal r) :
    ReceiverLegal (startedFrame frame width height r) := by
  obtain ⟨-, -, -, low, high, -⟩ := legal
  refine ⟨by simp [startedFrame], by simp [startedFrame], by simp [startedFrame], low, high, ?_⟩
  simp only [startedFrame, clampNat]
  omega

theorem endedLock_legal {r : Receiver} (legal : ReceiverLegal r) : ReceiverLegal (endedLock r) := by
  obtain ⟨-, -, -, low, high, wide, widest, tall, tallest, -⟩ := legal
  refine ⟨?_, ?_, ?_, low, high, wide, widest, tall, tallest, Nat.zero_le _⟩
  all_goals cases carrier : r.carrier <;> simp [endedLock, carrier]

/-! ## The ring holds the current frame -/

/-- The ring of a link side holds the last lines of its receiver's frame. -/
def LinkSide.HoldsFrame (x : LinkSide) : Prop :=
  x.ring.map RingLine.number = List.range' (x.receiver.lines - min 256 x.receiver.lines) (min 256 x.receiver.lines) ∧
    (∀ l ∈ x.ring, l.pixels.length = x.receiver.width) ∧
    (x.receiver.state = .noSignal ∨ x.receiver.state = .search → x.ring = [])

theorem ringHoldsFrame_iff (s : State) : RingHoldsFrame s ↔ (linkSide s).HoldsFrame := Iff.rfl

theorem holdsFrame_of_empty {x : LinkSide} (ring : x.ring = []) (lines : x.receiver.lines = 0) : x.HoldsFrame := by
  simp [LinkSide.HoldsFrame, ring, lines]

/-- A receiver on the same frame holds the same ring, unless it has left the frame for NO-SIGNAL or SEARCH. -/
theorem holdsFrame_of_sameFrame {x y : LinkSide} (holds : x.HoldsFrame) (ring : y.ring = x.ring)
    (lines : y.receiver.lines = x.receiver.lines) (width : y.receiver.width = x.receiver.width)
    (off : y.receiver.state = .noSignal ∨ y.receiver.state = .search →
      x.receiver.state = .noSignal ∨ x.receiver.state = .search) : y.HoldsFrame := by
  obtain ⟨numbers, widths, empty⟩ := holds
  refine ⟨by rw [ring, lines, numbers], by rwa [ring, width], fun offFrame => ?_⟩
  rw [ring]
  exact empty (off offFrame)

/-- A shaped line has the frame's width (R9). -/
theorem shapeLine_length (width : Nat) (pixels : List Pixel) : (shapeLine width pixels).length = width := by
  simp only [shapeLine, List.length_append, List.length_take, List.length_replicate]
  omega

/-- A line placed in the ring: the ring with the line at its end, without its oldest line where it held 256 (R11). -/
theorem ringPush_eq_drop (ring : List RingLine) (l : RingLine) :
    ringPush ring l = (ring ++ [l]).drop (ring.length - 255) := by
  unfold ringPush
  split
  · rw [show ring.length - 255 = 0 by omega, List.drop_zero]
  · rw [List.drop_append_of_le_length (by omega)]

/-- The numbers of the last 256 of `n` lines at most, and those of `n + 1`: the next number joins them, and the first leaves
where there were 256. -/
theorem lastNumbers_succ (n : Nat) :
    ((List.range' (n - min 256 n) (min 256 n)) ++ [n]).drop (min 256 n - 255) =
      List.range' (n + 1 - min 256 (n + 1)) (min 256 (n + 1)) := by
  have joined : List.range' (n - min 256 n) (min 256 n) ++ [n] = List.range' (n - min 256 n) (min 256 n + 1) := by
    rw [List.range'_concat, one_mul, Nat.sub_add_cancel (min_le_right _ _)]
  have first : n - min 256 n + (min 256 n - 255) * 1 = n + 1 - min 256 (n + 1) := by omega
  have count : min 256 n + 1 - (min 256 n - 255) = min 256 (n + 1) := by omega
  rw [joined, List.drop_range', first, count]

/-- A completed line keeps the ring the last lines of the frame (R10, R11). -/
theorem holdsFrame_of_lineCompleted {x y : LinkSide} {pixels : List Pixel} (holds : x.HoldsFrame)
    (locked : y.receiver.state = .locked) (lines : y.receiver.lines = x.receiver.lines + 1)
    (width : y.receiver.width = x.receiver.width)
    (ring : y.ring = ringPush x.ring { number := x.receiver.lines, pixels := shapeLine x.receiver.width pixels }) :
    y.HoldsFrame := by
  obtain ⟨numbers, widths, -⟩ := holds
  have length : x.ring.length = min 256 x.receiver.lines := by simpa using congrArg List.length numbers
  rw [ringPush_eq_drop] at ring
  refine ⟨?_, fun l member => ?_, by simp [locked]⟩
  · rw [ring, lines, ← lastNumbers_succ, List.map_drop, List.map_append, numbers, length]
    rfl
  · rw [ring] at member
    rw [width]
    obtain held | new := List.mem_append.1 (List.mem_of_mem_drop member)
    · exact widths l held
    · rw [List.mem_singleton.1 new]
      exact shapeLine_length _ _

/-- Every change of the link side keeps the receiver legal and the ring on the current frame. -/
theorem LinkChange.keeps_frame {x y : LinkSide} (change : LinkChange x y) (legal : ReceiverLegal x.receiver)
    (holds : x.HoldsFrame) : ReceiverLegal y.receiver ∧ y.HoldsFrame := by
  cases change with
  | kept => exact ⟨legal, holds⟩
  | timeoutSet ms low high =>
    obtain ⟨timer, noSignal, search, -, -, geometry⟩ := legal
    exact ⟨⟨timer, noSignal, search, low, high, geometry⟩, holds⟩
  | repeated => exact ⟨legal, holds⟩
  | carrierRaised =>
    refine ⟨raisedCarrier_legal legal, holdsFrame_of_sameFrame holds rfl rfl rfl ?_⟩
    cases state : x.receiver.state <;> simp [raisedCarrier, state]
  | carrierLost broken =>
    refine ⟨lostCarrier_legal legal, holdsFrame_of_sameFrame holds rfl ?_ ?_ ?_⟩
    all_goals cases state : x.receiver.state <;> simp [lostCarrier, startCoasting, state]
  | coasted bytes locked =>
    exact ⟨startCoasting_legal legal, holdsFrame_of_sameFrame holds rfl rfl rfl (by simp [startCoasting])⟩
  | frameStarted frame width height => exact ⟨startedFrame_legal frame width height legal, holdsFrame_of_empty rfl rfl⟩
  | lineCompleted pixels locked owed =>
    obtain ⟨timer, noSignal, search, low, high, wide, widest, tall, tallest, -⟩ := legal
    exact ⟨⟨timer, noSignal, search, low, high, wide, widest, tall, tallest, owed⟩,
      holdsFrame_of_lineCompleted holds locked rfl rfl rfl⟩
  | lockEnded => exact ⟨endedLock_legal legal, holdsFrame_of_empty rfl rfl⟩
  | powerOn broken => exact ⟨by simp [ReceiverLegal, State.reset], holdsFrame_of_empty rfl rfl⟩

/-- Settles O54: every command changes the link side in a way that keeps the receiver legal and the ring on the frame. -/
theorem ringHoldsCurrentFrameAlways : Obligations.RingHoldsCurrentFrameAlways := by
  refine step_keeps (fun _ _ inv => inv) fun c s t inv run => ?_
  obtain ⟨legal, holds⟩ := inv
  rw [ringHoldsFrame_iff] at holds ⊢
  exact (exec_linkChange run).keeps_frame legal holds

/-! ## The presented carrier -/

@[simp] theorem lostCarrier_carrier (r : Receiver) : (lostCarrier r).carrier = false := by
  unfold lostCarrier
  split <;> rfl

/-- Every change of the link side presents the carrier it leaves (R16). -/
theorem LinkChange.keeps_presentedCarrier {x y : LinkSide} (change : LinkChange x y)
    (presented : presentedCarrier x.thru = x.receiver.carrier) : presentedCarrier y.thru = y.receiver.carrier := by
  cases change with
  | kept => exact presented
  | timeoutSet ms low high => exact presented
  | repeated item stream => exact (Laws.presentedCarrier_append_item _ stream).trans presented
  | carrierRaised => exact Laws.presentedCarrier_append_carrier _ true
  | carrierLost broken =>
    rw [lostCarrier_carrier]
    exact Laws.presentedCarrier_append_carrier _ false
  | coasted bytes locked => exact (Laws.presentedCarrier_append_item _ (by simp)).trans presented
  | frameStarted frame width height => exact (Laws.presentedCarrier_append_item _ (by simp)).trans presented
  | lineCompleted pixels locked owed => exact (Laws.presentedCarrier_append_item _ (by simp)).trans presented
  | lockEnded => exact presented
  | powerOn broken =>
    cases up : x.receiver.carrier with
    | true => exact Laws.presentedCarrier_append_carrier _ false
    | false => exact presented.trans up

/-- Settles O58: every command changes the link side in a way that presents the carrier it leaves. -/
theorem presentedCarrierFollowsSourceCarrier : Obligations.PresentedCarrierFollowsSourceCarrier :=
  step_keeps (fun _ _ inv => inv) fun _ _ _ inv run => (exec_linkChange run).keeps_presentedCarrier inv

end Sys2Proof.Proofs
end

section
/-! The events of the link and the setting verbs, as whole next states (chapter 1; R112, R132, R159, R174, R183). -/

namespace Sys2Proof.Proofs

open Sys2Proof.Machine Sys2Proof.Safety Sys2Proof.Laws

/-! ## Events handed to the heads -/

/-- What an event handed to the heads makes of `s`, field by field: each head and port follows `f`, the counter of such events
goes up, the answers change only where a head swaps, and the rest stays (R17). -/
structure HandedToHeads (f : Head → HeadRun) (s t : State) : Prop where
  receiver : t.receiver = s.receiver
  ring : t.ring = s.ring
  heads : ∀ k, t.heads.get k = (f (s.heads.get k)).head
  ports : ∀ k, t.outputs.ports.get k = s.outputs.ports.get k ++ (f (s.heads.get k)).emitted
  thru : t.outputs.thru = s.outputs.thru
  others : t.outputs.returned = s.outputs.returned ∧ t.filter = s.filter ∧ t.health = s.health ∧ t.fault = s.fault ∧
    t.intake = s.intake ∧ t.loader = s.loader ∧ t.copy = s.copy ∧ t.control = s.control ∧ t.turn = s.turn + 1 ∧
    t.pending = s.pending ∧ ((∀ k, (f (s.heads.get k)).swapped = none) → t.answers = s.answers)

theorem handToHeads_spec (f : Head → HeadRun) (s : State) : HandedToHeads f s (handToHeads f s) := by
  have noSwap := handToHeads_answers_of_none f s
  rw [handToHeads_eq] at noSwap ⊢
  exact ⟨rfl, rfl, by simp, by simp, rfl, rfl, rfl, rfl, rfl, rfl, rfl, rfl, rfl, rfl, rfl, noSwap⟩

/-- Settles O9: the marker is repeated and the receiver and ring set, then the event is handed to the heads. -/
theorem frameStartLocksAndHandsToHeads : Obligations.FrameStartLocksAndHandsToHeads := by
  intro s f w h released carrier
  have handed := handToHeads_spec (takeFrameStart (viewOf s) (s.receiver.state == .coasting) f)
    (repeatThru (.marker (encodeMarker f w h)) { s with receiver := startedFrame f w h s.receiver, ring := [] })
  refine ⟨_, ?_, handed.receiver, handed.ring, handed.heads, handed.ports, handed.thru, handed.others⟩
  show Host.Outcome.next (whileReleased (frameStart f w h) s) = _
  rw [whileReleased_of_released _ released, frameStart, if_neg carrier]
  rfl

/-- Settles O10: the receiver and ring are set, then the expiry is handed to the heads. -/
theorem absenceExpiryEndsLock : Obligations.AbsenceExpiryEndsLock := by
  intro s released coasting timer
  have handed := handToHeads_spec (takeAbsence (viewOf s)) { s with receiver := endedLock s.receiver, ring := [] }
  refine ⟨_, ?_, handed.receiver, handed.ring, handed.heads, handed.ports, handed.thru, handed.others⟩
  show Host.Outcome.next (whileReleased absenceExpiry s) = _
  rw [whileReleased_of_released _ released, absenceExpiry, if_pos ⟨coasting, timer⟩]
  rfl

/-! ## Active lines -/

/-- The state in which a completed line is handed to the heads (R10, R11). -/
def placedLine (pixels : List Pixel) (s : State) : State :=
  { repeatThru (.line pixels) s with
    receiver := { s.receiver with lines := s.receiver.lines + 1 }
    ring := ringPush s.ring { number := s.receiver.lines, pixels := shapeLine s.receiver.width pixels } }

theorem lineCompletion_of_owed {s : State} (pixels : List Pixel) (locked : s.receiver.state = .locked)
    (owed : s.receiver.lines < s.receiver.height) :
    lineCompletion pixels s =
      handToHeads (takeLine (viewOf (placedLine pixels s)) s.receiver.lines) (placedLine pixels s) := by
  have carrier : s.receiver.state ≠ .noSignal := by simp [locked]
  have due : (repeatThru (.line pixels) s).receiver.state = .locked ∧
      (repeatThru (.line pixels) s).receiver.lines < (repeatThru (.line pixels) s).receiver.height := ⟨locked, owed⟩
  rw [lineCompletion, if_neg carrier]
  exact if_pos due

/-- A line that no frame is owed is repeated and discarded (R8, R15). -/
theorem lineCompletion_of_discarded {s : State} (pixels : List Pixel) (carrier : s.receiver.state ≠ .noSignal)
    (discarded : ¬(s.receiver.state = .locked ∧ s.receiver.lines < s.receiver.height)) :
    lineCompletion pixels s = repeatThru (.line pixels) s := by
  rw [lineCompletion, if_neg carrier]
  exact if_neg discarded

/-- Where a pixel was received, a shaped line has it. -/
theorem shapeLine_getElem?_of_received {width u : Nat} {pixels : List Pixel} (inWidth : u < width)
    (received : u < pixels.length) : (shapeLine width pixels)[u]? = pixels[u]? := by
  rw [shapeLine, List.getElem?_append_left (by simp [inWidth, received]), List.getElem?_take_of_lt inWidth]

/-- Past the last received pixel, a shaped line repeats it. -/
theorem shapeLine_getElem?_of_padded {width u : Nat} {pixels : List Pixel} (inWidth : u < width)
    (padded : pixels.length ≤ u) (nonempty : pixels ≠ []) : (shapeLine width pixels)[u]? = pixels.getLast? := by
  have uncut : pixels.take width = pixels := List.take_of_length_le (by omega)
  rw [shapeLine, uncut, List.getLast?_eq_some_getLast nonempty, List.getElem?_append_right padded, List.getElem?_replicate,
    if_pos (by omega)]
  rfl

/-- Settles O11: a line owed is placed and handed to the heads, another one repeated alone, and a shaped line is the received
one, cut or padded. -/
theorem activeLineEntersRingThenHeads : Obligations.ActiveLineEntersRingThenHeads := by
  refine ⟨?_, ?_, fun width pixels => ⟨shapeLine_length width pixels, fun u => shapeLine_getElem?_of_received,
    fun u => shapeLine_getElem?_of_padded, ?_⟩⟩
  · intro s pixels released locked owed
    have handed := handToHeads_spec (takeLine (viewOf (placedLine pixels s)) s.receiver.lines) (placedLine pixels s)
    have view : { width := s.receiver.width, height := s.receiver.height, ring := (placedLine pixels s).ring } =
        viewOf (placedLine pixels s) := rfl
    refine ⟨_, ?_, handed.receiver, handed.ring.trans (ringPush_eq_drop _ _), ?_, ?_, handed.thru, ?_⟩
    · show Host.Outcome.next (whileReleased (lineCompletion pixels) s) = _
      rw [whileReleased_of_released _ released, lineCompletion_of_owed pixels locked owed]
    all_goals rw [handed.ring, view]
    · exact handed.heads
    · exact handed.ports
    · exact handed.others
  · intro s pixels released discarded
    show Host.Outcome.next (whileReleased (lineCompletion pixels) s) = _
    rw [whileReleased_of_released _ released, lineCompletion_of_discarded pixels]
    · rfl
    · obtain ⟨state, -⟩ | state | state := discarded <;> simp [state]
    · obtain ⟨-, past⟩ | state | state := discarded
      · omega
      · simp [state]
      · simp [state]
  · rintro rfl
    simp [shapeLine, blackPixel]

/-! ## The reset input and power-on reset -/

/-- Settles O4: all but three commands run under the reset input, and the release takes a carrier up where there is one. -/
theorem resetInputGatesEvents : Obligations.ResetInputGatesEvents := by
  refine ⟨fun c s asserted notReset notRelease notHold => ?_, fun s asserted => ⟨?_, fun down noSignal => ?_⟩⟩
  · cases c
    case powerOnReset b => exact absurd rfl (notReset b)
    case resetInputRelease b => exact absurd rfl (notRelease b)
    case holdBackRelease b => exact absurd rfl (notHold b)
    all_goals exact congrArg Host.Outcome.next (whileReleased_of_asserted _ asserted)
  · exact congrArg Host.Outcome.next (if_pos asserted)
  · show Host.Outcome.next (releaseReset true s) = _
    simp [releaseReset, asserted, carrierUp, down, noSignal, repeatThru]

/-- Settles O5: the reset state but for what the part does not own, and the withdrawal of a carrier that was up. -/
theorem powerOnResetSetsEveryBlock : Obligations.PowerOnResetSetsEveryBlock := by
  refine ⟨fun broken => rfl, fun s broken => ⟨_, rfl, rfl, rfl, rfl, rfl, rfl, rfl, rfl, rfl, rfl, rfl, rfl, rfl, ?_, ?_, ?_,
    rfl, rfl⟩⟩
  · intro h
    have head : (powerOn broken s).heads.get h = resetHead h := perHead_get_ofFn resetHead h
    rw [head]
    exact ⟨rfl, rfl, rfl, rfl, rfl, rfl, rfl, rfl, rfl, rfl, rfl, rfl, rfl⟩
  · exact fun down => if_neg (by simp [down])
  · exact fun up => if_pos up

/-! ## Carrier events, malformed markers and failed packets -/

/-- Settles O8, by the receiver's state. -/
theorem carrierAndMalformedMarkersMoveReceiver : Obligations.CarrierAndMalformedMarkersMoveReceiver := by
  refine ⟨fun s broken released => ⟨fun down => ?_, fun up => ?_⟩, fun s bytes released => ?_⟩
  · show Host.Outcome.next (whileReleased carrierUp s) = _
    rw [whileReleased_of_released _ released, carrierUp, if_neg (by simp [down])]
    rfl
  · have lost : exec (.carrierLoss broken) s =
        .next { s with receiver := lostCarrier s.receiver, outputs := withdrawLink broken s.outputs } := by
      show Host.Outcome.next (whileReleased (carrierLoss broken) s) = _
      rw [whileReleased_of_released _ released, carrierLoss, if_pos up]
      rfl
    rw [lost]
    refine ⟨fun state => ?_, fun state => ?_, fun state => ?_⟩
    all_goals
      simp only [lostCarrier, state]
      rfl
  · have marked : exec (.malformedMarker bytes) s = .next (malformedMarker bytes s) :=
      congrArg Host.Outcome.next (whileReleased_of_released _ released)
    rw [marked]
    refine ⟨fun state => ?_, ?_⟩
    · simp only [malformedMarker, state]
      rfl
    · rintro (state | state)
      all_goals
        simp only [malformedMarker, state]
        rfl

/-- What fails its check goes on as received (R15, R123). -/
theorem forwardedPacket_of_failed {bytes : List Byte} (failed : packetGood bytes = false) :
    forwardedPacket bytes = bytes := by simp [forwardedPacket, failed]

/-- Settles O12, by the receiver's state. -/
theorem failedPacketCountsAndReports : Obligations.FailedPacketCountsAndReports := by
  intro s bytes released
  have arrived : exec (.packetArrival bytes) s = .next (packetArrival bytes s) :=
    congrArg Host.Outcome.next (whileReleased_of_released _ released)
  rw [arrived]
  refine ⟨fun state failed => ?_, ?_⟩
  · simp only [packetArrival, state, checkPacket, failed, forwardedPacket_of_failed failed]
    rfl
  · rintro (state | state)
    all_goals
      simp only [packetArrival, state]
      rfl

/-! ## Setting verbs -/

theorem clampTimeout_eq (ms : Nat) : max 8 (min ms 250) = if ms < 8 then 8 else if 250 < ms then 250 else ms := by
  split_ifs <;> omega

theorem intakeModeOf_of_defined {code : Nat} (defined : code ≤ 1) :
    ∃ m, intakeModeOf code = some m ∧ intakeModeCode m = code ∧ m = if code = 0 then .overrun else .overwrite := by
  obtain rfl | rfl : code = 0 ∨ code = 1 := by omega
  · exact ⟨_, rfl, rfl, rfl⟩
  · exact ⟨_, rfl, rfl, rfl⟩

theorem intakeModeOf_of_undefined {code : Nat} (undefined : 1 < code) : intakeModeOf code = none := by
  rw [intakeModeOf, if_neg (by omega), if_neg (by omega)]

theorem guardModeOf_of_defined {code : Nat} (defined : code ≤ 1) :
    ∃ m, guardModeOf code = some m ∧ guardModeCode m = code ∧ m = if code = 0 then .strict else .lenient := by
  obtain rfl | rfl : code = 0 ∨ code = 1 := by omega
  · exact ⟨_, rfl, rfl, rfl⟩
  · exact ⟨_, rfl, rfl, rfl⟩

theorem guardModeOf_of_undefined {code : Nat} (undefined : 1 < code) : guardModeOf code = none := by
  rw [guardModeOf, if_neg (by omega), if_neg (by omega)]

theorem mergeModeOf_of_defined {code : Nat} (defined : code ≤ 2) :
    ∃ m, mergeModeOf code = some m ∧ mergeModeCode m = code ∧
      m = if code = 0 then .relayFirst else if code = 1 then .ownFirst else .alternate := by
  obtain rfl | rfl | rfl : code = 0 ∨ code = 1 ∨ code = 2 := by omega
  · exact ⟨_, rfl, rfl, rfl⟩
  · exact ⟨_, rfl, rfl, rfl⟩
  · exact ⟨_, rfl, rfl, rfl⟩

theorem mergeModeOf_of_undefined {code : Nat} (undefined : 2 < code) : mergeModeOf code = none := by
  rw [mergeModeOf, if_neg (by omega), if_neg (by omega), if_neg (by omega)]

/-- Whether the fault record is occupied, as a byte (R159). -/
theorem boolByte_occupied (r : FaultRecord) : boolByte r.entry.isSome = if r.entry = none then 0#8 else 1#8 := by
  cases r.entry <;> rfl

/-- Settles O40: each verb's rule carries out a defined code and refuses another. -/
theorem settingVerbsSetTheirValue : Obligations.SettingVerbsSetTheirValue := by
  refine ⟨fun s p rest takes => ?_, fun s p rest => ⟨fun takes => ⟨fun defined => ?_, fun undefined => ?_⟩,
    fun takes => ⟨fun defined => ?_, fun undefined => ?_⟩, fun takes => ⟨fun defined => ?_, fun undefined => ?_⟩⟩⟩
  · refine exec_takeOf_of_carryOut (v := .setLink) takes rfl ?_
    rw [ruleOf, ruleSetLink_eq, clampTimeout_eq]
    rfl
  · obtain ⟨m, mode, code, rfl⟩ := intakeModeOf_of_defined defined
    refine exec_takeOf_of_carryOut (v := .setIntake) takes rfl ?_
    simp only [ruleOf, ruleSetIntake, mode, code]
    rfl
  · refine exec_takeOf_of_refuse (v := .setIntake) takes rfl ?_
    simp only [ruleOf, ruleSetIntake, intakeModeOf_of_undefined undefined]
  · obtain ⟨m, mode, code, rfl⟩ := guardModeOf_of_defined defined
    refine exec_takeOf_of_carryOut (v := .setGuard) takes rfl ?_
    simp only [ruleOf, ruleSetGuard, mode, code, ← boolByte_occupied]
    rfl
  · refine exec_takeOf_of_refuse (v := .setGuard) takes rfl ?_
    simp only [ruleOf, ruleSetGuard, guardModeOf_of_undefined undefined]
  · obtain ⟨m, mode, code, rfl⟩ := mergeModeOf_of_defined defined
    refine exec_takeOf_of_carryOut (v := .setReturn) takes rfl ?_
    simp only [ruleOf, ruleSetReturn, mode, code]
    rfl
  · refine exec_takeOf_of_refuse (v := .setReturn) takes rfl ?_
    simp only [ruleOf, ruleSetReturn, mergeModeOf_of_undefined undefined]

end Sys2Proof.Proofs
end

section
/-! The items on the link as bytes: fields, checks, markers, packets and answers (chapter 11), and what the thru port forwards
(R15, R118, R123). -/

namespace Sys2Proof.Proofs

/-! ## Two-byte fields (R193) -/

@[simp] theorem byteOf_toNat (n : Nat) : (byteOf n).toNat = n % 256 := by simp [byteOf]

@[simp] theorem byteOf_of_toNat (b : Byte) : byteOf b.toNat = b := by simp [byteOf]

/-- The value of a field's two bytes. -/
theorem fieldBytes_value (n : Nat) : (byteOf (n / 256)).toNat * 256 + (byteOf n).toNat = n % 65536 := by
  simp only [byteOf_toNat]
  omega

/-- A field reads back from its two bytes. -/
theorem half_of_fieldBytes (h : Half) :
    BitVec.ofNat 16 ((byteOf (h.toNat / 256)).toNat * 256 + (byteOf h.toNat).toNat) = h := by
  rw [fieldBytes_value, Nat.mod_eq_of_lt h.isLt, BitVec.ofNat_toNat, BitVec.setWidth_eq]

/-- The two bytes of the field that two bytes carry are those bytes. -/
theorem natBytes2_of_bytes (hi lo : Byte) : natBytes2 (hi.toNat * 256 + lo.toNat) = [hi, lo] := by
  have high : (hi.toNat * 256 + lo.toNat) / 256 = hi.toNat := by have := lo.isLt; omega
  have low : byteOf (hi.toNat * 256 + lo.toNat) = lo := by
    apply BitVec.eq_of_toNat_eq
    have := lo.isLt
    rw [byteOf_toNat]
    omega
  rw [natBytes2, high, low, byteOf_of_toNat]

theorem halfBytes_of_bytes (hi lo : Byte) : halfBytes (BitVec.ofNat 16 (hi.toNat * 256 + lo.toNat)) = [hi, lo] := by
  have range : hi.toNat * 256 + lo.toNat < 65536 := by have := hi.isLt; have := lo.isLt; omega
  have value : (BitVec.ofNat 16 (hi.toNat * 256 + lo.toNat)).toNat = hi.toNat * 256 + lo.toNat := by
    rw [BitVec.toNat_ofNat]
    omega
  rw [halfBytes, value]
  exact natBytes2_of_bytes hi lo

@[simp] theorem halfBytes_length (h : Half) : (halfBytes h).length = 2 := rfl

/-- The field that closes a list of bytes reads back. -/
theorem half_of_closingField (bs : List Byte) (h : Half) :
    BitVec.ofNat 16 (natAt2 (bs ++ halfBytes h) bs.length) = h := by
  simpa [natAt2, natAt, byteAt, halfBytes, List.getD] using half_of_fieldBytes h

/-- Bytes are what precedes their last two, closed by the field that those carry. -/
theorem take_append_closingField {bs : List Byte} {n : Nat} (length : bs.length = n + 2) :
    bs.take n ++ halfBytes (BitVec.ofNat 16 (natAt2 bs n)) = bs := by
  obtain ⟨hi, lo, last⟩ := List.length_eq_two.1 (show (bs.drop n).length = 2 by simp [length])
  have whole : bs = bs.take n ++ [hi, lo] := by rw [← last, List.take_append_drop]
  have taken : (bs.take n).length = n := by simp [length]
  have value : natAt2 bs n = hi.toNat * 256 + lo.toNat := by
    rw [whole]
    simp [natAt2, natAt, byteAt, List.getD, taken]
  rw [value, halfBytes_of_bytes, ← whole]

/-! ## The check (R194) -/

/-- One data bit into the remainder, in the words of R194. -/
theorem crcBit_eq (r : Half) (bit : Bool) :
    crcBit r bit = if r.msb = bit then r <<< 1 else (r <<< 1) ^^^ 0x1021#16 := by
  unfold crcBit
  by_cases same : r.msb = bit <;> simp [same]

theorem crc16_append_byte (bytes : List Byte) (b : Byte) :
    crc16 (bytes ++ [b]) = (List.range 8).foldl
      (fun (r : Half) i => if r.msb = b.getLsbD (7 - i) then r <<< 1 else (r <<< 1) ^^^ 0x1021#16) (crc16 bytes) := by
  simp only [← crcBit_eq, crc16, List.foldl_append]
  rfl

@[simp] theorem withCheck_length (bs : List Byte) : (withCheck bs).length = bs.length + 2 := by simp [withCheck]

/-- Whether bytes are closed by a good check from the `n`-th on. -/
theorem goodCheck_iff (bs : List Byte) (n : Nat) :
    (halfBytes (crc16 (bs.take n)) == bs.drop n) = true ↔ bs = withCheck (bs.take n) := by
  rw [beq_iff_eq, withCheck]
  constructor
  · intro check
    rw [check, List.take_append_drop]
  · intro closed
    exact List.append_cancel_left (closed.symm.trans (List.take_append_drop n bs).symm)

theorem take_withCheck (bs : List Byte) : (withCheck bs).take bs.length = bs := by simp [withCheck]

/-! ## Markers (R3, R200) -/

theorem markerValid_iff (bs : List Byte) : markerValid bs = true ↔ bs.length = 7 ∧ bs = withCheck (bs.take 5) := by
  rw [markerValid, Bool.and_eq_true, goodCheck_iff, beq_iff_eq]

/-- A valid marker is decoded as the frame start with its fields. -/
theorem decodeMarker_encodeMarker (f : Byte) (w h : Half) : decodeMarker (encodeMarker f w h) = .frameStart f w h := by
  have valid : markerValid (encodeMarker f w h) = true := (markerValid_iff _).2 ⟨rfl, rfl⟩
  rw [decodeMarker, if_pos valid]
  exact congrArg₂ (Instr.frameStart f) (half_of_fieldBytes w) (half_of_fieldBytes h)

/-- A valid marker is the marker of the fields that its bytes carry. -/
theorem eq_encodeMarker_of_valid {bs : List Byte} (valid : markerValid bs = true) : ∃ f w h, bs = encodeMarker f w h := by
  obtain ⟨length, closed⟩ := (markerValid_iff bs).1 valid
  match bs, length with
  | [f, w1, w0, h1, h0, c1, c0], _ =>
    refine ⟨f, BitVec.ofNat 16 (w1.toNat * 256 + w0.toNat), BitVec.ofNat 16 (h1.toNat * 256 + h0.toNat), ?_⟩
    rw [encodeMarker, markerFields, halfBytes_of_bytes, halfBytes_of_bytes]
    exact closed

theorem decodeMarker_eq_frameStart_iff (bs : List Byte) (f : Byte) (w h : Half) :
    decodeMarker bs = .frameStart f w h ↔ bs = encodeMarker f w h := by
  constructor
  · intro decoded
    by_cases valid : markerValid bs = true
    · obtain ⟨f', w', h', rfl⟩ := eq_encodeMarker_of_valid valid
      rw [decodeMarker_encodeMarker] at decoded
      cases decoded
      rfl
    · rw [decodeMarker, if_neg valid] at decoded
      cases decoded
  · rintro rfl
    exact decodeMarker_encodeMarker f w h

/-- Bytes that are no marker's are a malformed marker. -/
theorem decodeMarker_of_malformed {bs : List Byte} (malformed : ∀ f w h, bs ≠ encodeMarker f w h) :
    decodeMarker bs = .malformedMarker bs := by
  refine if_neg fun valid => ?_
  obtain ⟨f, w, h, same⟩ := eq_encodeMarker_of_valid valid
  exact malformed f w h same

/-! ## Packets (R109 to R111, R193) -/

@[simp] theorem headerBytes_length (h : Header) : (headerBytes h).length = 6 := rfl

/-- The raw header of a packet's bytes is the header they begin with. -/
@[simp] theorem rawHeader_append (h : Header) (rest : List Byte) : rawHeader (headerBytes h ++ rest) = h :=
  congrArg (Header.mk h.target h.verb h.tag h.flags) (half_of_fieldBytes h.length)

/-- Bytes that reach past a header begin with the bytes of their raw header. -/
theorem headerBytes_rawHeader {bs : List Byte} (complete : 6 ≤ bs.length) : headerBytes (rawHeader bs) = bs.take 6 := by
  match bs, complete with
  | target :: verb :: tag :: flags :: hi :: lo :: rest, _ =>
    exact congrArg ([target, verb, tag, flags] ++ ·) (halfBytes_of_bytes hi lo)

theorem encodePacket_eq (p : Packet) :
    encodePacket p = headerBytes p.header ++ (p.body ++ halfBytes (crc16 (headerBytes p.header ++ p.body))) := by
  rw [encodePacket, withCheck, List.append_assoc]

@[simp] theorem rawHeader_encodePacket (p : Packet) : rawHeader (encodePacket p) = p.header := by
  rw [encodePacket_eq, rawHeader_append]

@[simp] theorem encodePacket_length (p : Packet) : (encodePacket p).length = 8 + p.body.length := by
  simp [encodePacket]
  omega

/-- A packet with a body of its length field passes its check (R110, R111). -/
theorem packetGood_encodePacket {p : Packet} (length : p.body.length = p.header.length.toNat) (short : p.body.length ≤ 272) :
    packetGood (encodePacket p) = true := by
  have whole : packetWhole (encodePacket p) = true := by
    simp [packetWhole, ← length, short]
  have fields : (encodePacket p).take ((encodePacket p).length - 2) = headerBytes p.header ++ p.body := by
    rw [show (encodePacket p).length - 2 = (headerBytes p.header ++ p.body).length by simp; omega]
    exact take_withCheck _
  rw [packetGood, whole, Bool.true_and, goodCheck_iff, fields]
  rfl

/-- A packet keeps its header and body (R193). -/
theorem packetOf_encodePacket {p : Packet} (length : p.body.length = p.header.length.toNat) :
    packetOf (encodePacket p) = p := by
  have body : ((encodePacket p).drop 6).take p.header.length.toNat = p.body := by
    rw [encodePacket_eq, List.drop_left' (headerBytes_length _), List.take_left' length]
  simp only [packetOf, rawHeader_encodePacket, body]

/-- Bytes that pass the check are those of the packet they are read as. -/
theorem eq_encodePacket_of_good {bs : List Byte} (good : packetGood bs = true) :
    (packetOf bs).body.length = (packetOf bs).header.length.toNat ∧ (packetOf bs).body.length ≤ 272 ∧
      bs = encodePacket (packetOf bs) := by
  rw [packetGood, packetWhole, Bool.and_eq_true, Bool.and_eq_true, goodCheck_iff, decide_eq_true_eq, beq_iff_eq] at good
  obtain ⟨⟨short, length⟩, closed⟩ := good
  have bodyLength : (packetOf bs).body.length = (rawHeader bs).length.toNat := by
    simp [packetOf]
    omega
  have fields : headerBytes (rawHeader bs) ++ (packetOf bs).body = bs.take (bs.length - 2) := by
    rw [headerBytes_rawHeader (by omega), packetOf, ← List.take_add]
    congr 1
    omega
  refine ⟨bodyLength, by omega, ?_⟩
  rw [encodePacket]
  exact fields ▸ closed

/-! ## Answers (R164, R197) -/

theorem answerBytes_eq (a : Answer) :
    answerBytes a = (answerHeaderBytes a.sourceHop a.verb a.tag a.outcome a.head a.body ++ a.body) ++ halfBytes a.check := rfl

/-- An answer keeps every field (R197). -/
theorem answerOf_answerBytes {a : Answer} (short : a.body.length < 65536) : answerOf (answerBytes a) = some a := by
  have field : natAt2 (answerBytes a) 5 = a.body.length :=
    (fieldBytes_value a.body.length).trans (Nat.mod_eq_of_lt short)
  have length : (answerBytes a).length = 9 + a.body.length := by
    simp [answerBytes, answerHeaderBytes, natBytes2]
    omega
  have body : ((answerBytes a).drop 7).take a.body.length = a.body := List.take_left' rfl
  have check : BitVec.ofNat 16 (natAt2 (answerBytes a) ((answerBytes a).length - 2)) = a.check := by
    rw [answerBytes_eq, List.length_append, halfBytes_length, Nat.add_sub_cancel, half_of_closingField]
  rw [answerOf, if_pos (by rw [field]; omega), field, body, check]
  rfl

/-- Bytes that reach past an answer's header begin with the header bytes of the fields they carry. -/
theorem answerHeader_take {bs : List Byte} (complete : 7 ≤ bs.length) :
    [byteAt bs 0, byteAt bs 1, byteAt bs 2, byteAt bs 3, byteAt bs 4] ++ natBytes2 (natAt2 bs 5) = bs.take 7 := by
  match bs, complete with
  | hop :: verb :: tag :: outcome :: head :: hi :: lo :: rest, _ =>
    exact congrArg ([hop, verb, tag, outcome, head] ++ ·) (natBytes2_of_bytes hi lo)

/-- Bytes are an answer only as that answer is written. -/
theorem eq_answerBytes_of_answerOf {bs : List Byte} {a : Answer} (read : answerOf bs = some a) : bs = answerBytes a := by
  unfold answerOf at read
  split at read
  · rename_i whole
    obtain ⟨least, length⟩ := whole
    cases read
    have bodyLength : ((bs.drop 7).take (natAt2 bs 5)).length = natAt2 bs 5 := by
      simp
      omega
    have upToCheck : bs.take 7 ++ (bs.drop 7).take (natAt2 bs 5) = bs.take (bs.length - 2) := by
      rw [← List.take_add]
      congr 1
      omega
    rw [answerBytes_eq, answerHeaderBytes, bodyLength, answerHeader_take (by omega), upToCheck]
    exact (take_append_closingField (by omega)).symm
  · cases read

/-- Settles O16, each clause by the lemma about its item. -/
theorem linkItemsReadBackAsWritten : Obligations.LinkItemsReadBackAsWritten :=
  ⟨decodeMarker_encodeMarker, fun _ length short => ⟨packetGood_encodePacket length short, packetOf_encodePacket length⟩,
    fun _ => answerOf_answerBytes, fun bytes good => ⟨packetOf bytes, eq_encodePacket_of_good good⟩,
    ⟨rfl, crc16_append_byte⟩, ⟨fun _ _ _ => rfl, fun _ => rfl, fun _ => rfl⟩, fun _ => rfl,
    fun bytes => ⟨decodeMarker_eq_frameStart_iff bytes, decodeMarker_of_malformed, fun _ => eq_answerBytes_of_answerOf⟩,
    fun n => ⟨byteOf_toNat n, rfl⟩, fun _ _ => ⟨rfl, rfl, rfl⟩⟩

/-! ## The thru port's packets (R118, R123) -/

/-- A packet of another verb than DISCOVER goes on as received. -/
theorem forwardedPacket_of_otherVerb {bytes : List Byte} (other : (rawHeader bytes).verb ≠ discoverCode) :
    forwardedPacket bytes = bytes := by simp [forwardedPacket, other]

/-- A good DISCOVER with its two fields goes on as the DISCOVER with the fields counted (R118). -/
theorem forwardedPacket_discover {header : Header} {hop flag : Byte} {more : List Byte} (verb : header.verb = discoverCode)
    (length : header.length.toNat = 2 + more.length) (short : more.length ≤ 270) :
    forwardedPacket (encodePacket { header := header, body := hop :: flag :: more }) =
      encodePacket { header := header, body := (forwardedHop hop flag).1 :: (forwardedHop hop flag).2 :: more } := by
  have good : packetGood (encodePacket { header := header, body := hop :: flag :: more }) = true :=
    packetGood_encodePacket (by simp; omega) (by simp; omega)
  have rest : ((encodePacket { header := header, body := hop :: flag :: more }).drop 8).take
      ((encodePacket { header := header, body := hop :: flag :: more }).length - 10) = more := by
    rw [encodePacket_length]
    exact List.take_left' (by simp; omega)
  rw [forwardedPacket, if_pos (by simp [good, verb]; omega)]
  simp only [rest]
  rfl

/-- The fields as R118 counts them. -/
theorem forwardedHop_eq (hop flag : Byte) :
    forwardedHop hop flag =
      if flag ≠ 0#8 then (hop, flag) else if hop.toNat ≤ 14 then (hop + 1#8, 0#8) else (15#8, 1#8) := by
  by_cases clear : flag = 0#8 <;> simp [forwardedHop, clear]

/-- Settles O17: what does not change by the check and the verb, a DISCOVER by its rewritten packet, which reads back. -/
theorem thruPortForwardsPacketsAndCountsHop : Obligations.ThruPortForwardsPacketsAndCountsHop := by
  refine ⟨fun bytes unchanged => ?_, fun header hop flag more verb length short => ?_⟩
  · obtain failed | other := unchanged
    · exact forwardedPacket_of_failed failed
    · exact forwardedPacket_of_otherVerb other
  · have sized (a b : Byte) : (a :: b :: more).length = header.length.toNat := by simp; omega
    have fits (a b : Byte) : (a :: b :: more).length ≤ 272 := by simp; omega
    dsimp only
    rw [forwardedPacket_discover verb length short, ← forwardedHop_eq]
    exact ⟨packetGood_encodePacket (sized _ _) (fits _ _), packetGood_encodePacket (sized _ _) (fits _ _),
      packetOf_encodePacket (sized _ _)⟩

end Sys2Proof.Proofs
end

section
/-! The window and reach steps of a tap (chapter 2; R13, R29 to R34). -/

namespace Sys2Proof.Proofs

open Sys2Proof.Machine

/-! ## Held rows -/

/-- The held line of a number is the one found under it, where no two held lines share a number. -/
theorem find?_number {ring : List RingLine} {l : RingLine} (held : l ∈ ring) (distinct : (ring.map RingLine.number).Nodup) :
    ring.find? (fun x => (x.number : Int) == l.number) = some l := by
  induction ring with
  | nil => cases held
  | cons x xs ih =>
    rw [List.map_cons, List.nodup_cons] at distinct
    obtain ⟨fresh, distinct⟩ := distinct
    obtain rfl | later := List.mem_cons.1 held
    · simp
    · have other : x.number ≠ l.number := fun same => fresh (same ▸ List.mem_map_of_mem later)
      rw [List.find?_cons_of_neg (by simpa using other)]
      exact ih later distinct

theorem ringPixel_of_held {ring : List RingLine} {l : RingLine} {col : Nat} {p : Pixel} (held : l ∈ ring)
    (distinct : (ring.map RingLine.number).Nodup) (pixel : l.pixels[col]? = some p) : ringPixel ring l.number col = p := by
  simp [ringPixel, find?_number held distinct, List.getD, pixel]

/-- The reach step on a ring that holds lines: the row nearest to the tap's, and whether that is another (R32). -/
theorem reach_of_ends {ring : List RingLine} {lo hi : RingLine} (first : ring.head? = some lo) (last : ring.getLast? = some hi)
    (row col : Int) :
    reach ring row col =
      (ringPixel ring (max lo.number (min row hi.number)) col, max (lo.number : Int) (min row hi.number) != row) := by
  simp [reach, first, last]

/-! ## The window step -/

section Window
variable {v : View} {h : MeshHeader} {row col : Int}

/-- No pixel of the source lies in the effective window (R29). -/
def WindowEmpty (v : View) (h : MeshHeader) : Prop :=
  min (h.ox + h.wx : Int) v.width - 1 < h.ox ∨ min (h.oy + h.wy : Int) v.height - 1 < h.oy

/-- A tap lies in the effective window (R29). -/
def InWindow (v : View) (h : MeshHeader) (row col : Int) : Prop :=
  h.ox ≤ col ∧ col ≤ min (h.ox + h.wx : Int) v.width - 1 ∧ h.oy ≤ row ∧ row ≤ min (h.oy + h.wy : Int) v.height - 1

theorem fetchTap_of_empty (empty : WindowEmpty v h) : fetchTap v h row col = (blackPixel, false) := if_pos empty

theorem fetchTap_of_inside (nonempty : ¬WindowEmpty v h) (inside : InWindow v h row col) :
    fetchTap v h row col = reach v.ring row col := (if_neg nonempty).trans (if_pos inside)

theorem fetchTap_of_black (nonempty : ¬WindowEmpty v h) (outside : ¬InWindow v h row col) (edge : h.edge = .black) :
    fetchTap v h row col = (blackPixel, false) := by
  refine (if_neg nonempty).trans ((if_neg outside).trans ?_)
  rw [edge]

theorem fetchTap_of_extend (nonempty : ¬WindowEmpty v h) (outside : ¬InWindow v h row col) (edge : h.edge = .extend) :
    fetchTap v h row col =
      reach v.ring (max h.oy (min row (min (h.oy + h.wy : Int) v.height - 1)))
        (max h.ox (min col (min (h.ox + h.wx : Int) v.width - 1))) := by
  refine (if_neg nonempty).trans ((if_neg outside).trans ?_)
  rw [edge]

end Window

/-- Settles O27: the window step by its cases, the reach step by the row's place among the held ones. -/
theorem tapsFollowWindowAndReach : Obligations.TapsFollowWindowAndReach := by
  refine ⟨fun ring l col p => ringPixel_of_held, fun v h row col => ⟨fetchTap_of_empty, fetchTap_of_inside,
    fetchTap_of_black, fetchTap_of_extend, rfl, fun lo hi first last ordered => ?_⟩⟩
  rw [reach_of_ends first last]
  refine ⟨fun above below => ?_, fun under => ?_, fun past => ?_⟩
  · have nearest : max (lo.number : Int) (min row hi.number) = row := by omega
    simp [nearest]
  · have nearest : max (lo.number : Int) (min row hi.number) = lo.number := by omega
    simp [nearest, under.ne']
  · have nearest : max (lo.number : Int) (min row hi.number) = hi.number := by omega
    simp [nearest, past.ne]

end Sys2Proof.Proofs
end

section
/-! From an output pixel to its taps and its codes (chapters 2 and 3): the interpolated source coordinate, the weights of the
taps, the lines formed of them, and the identity tables. -/

namespace Sys2Proof.Proofs

open Sys2Proof.Machine Sys2Proof.Laws

/-! ## The source coordinate (R25) -/

section Bilinear
variable {c fx fy : Nat} {v00 v10 v01 v11 : Int}

/-- The weighted sum of four corner values over a cell of size `c` (R25). -/
def cornerSum (c fx fy : Nat) (v00 v10 v01 v11 : Int) : Int :=
  (c - fx : Int) * (c - fy) * v00 + (fx : Int) * (c - fy) * v10 + (c - fx : Int) * fy * v01 + (fx : Int) * fy * v11

theorem bilinear_eq (c fx fy : Nat) (v00 v10 v01 v11 : Int) :
    bilinear c fx fy v00 v10 v01 v11 = (cornerSum c fx fy v00 v10 v01 v11 + (c : Int) ^ 2 / 2) / (c : Int) ^ 2 := by
  rw [bilinear, cornerSum, sq]

/-- Corners all of one value have that value times the cell as their sum: the weights sum to the cell. -/
theorem cornerSum_const (c fx fy : Nat) (v : Int) : cornerSum c fx fy v v v v = (c : Int) ^ 2 * v := by
  rw [cornerSum]
  ring

theorem cornerSum_mono (inX : fx < c) (inY : fy < c) {w00 w10 w01 w11 : Int} (h00 : v00 ≤ w00) (h10 : v10 ≤ w10) (h01 : v01 ≤ w01)
    (h11 : v11 ≤ w11) : cornerSum c fx fy v00 v10 v01 v11 ≤ cornerSum c fx fy w00 w10 w01 w11 := by
  have x : (0 : Int) ≤ c - fx := by omega
  have y : (0 : Int) ≤ c - fy := by omega
  simp only [cornerSum]
  gcongr

/-- The rounded mean of one value over a cell is that value. -/
theorem round_const {n : Int} (pos : 0 < n) (v : Int) : (n * v + n / 2) / n = v := by
  rw [add_comm, Int.add_mul_ediv_left _ _ pos.ne', Int.ediv_eq_zero_of_lt (by omega) (by omega), zero_add]

/-- Corners between two bounds have their rounded mean between them (R25). -/
theorem bilinear_bounds (inX : fx < c) (inY : fy < c) {lo hi : Int} (corners : ∀ x ∈ [v00, v10, v01, v11], lo ≤ x ∧ x ≤ hi) :
    lo ≤ bilinear c fx fy v00 v10 v01 v11 ∧ bilinear c fx fy v00 v10 v01 v11 ≤ hi := by
  have pos : (0 : Int) < (c : Int) ^ 2 := by
    have : 0 < c := by omega
    positivity
  simp only [List.forall_mem_cons, List.not_mem_nil, false_imp_iff, implies_true, and_true] at corners
  obtain ⟨⟨l00, u00⟩, ⟨l10, u10⟩, ⟨l01, u01⟩, l11, u11⟩ := corners
  have low := cornerSum_mono inX inY l00 l10 l01 l11
  have high := cornerSum_mono inX inY u00 u10 u01 u11
  rw [cornerSum_const] at low high
  rw [bilinear_eq]
  constructor
  · calc lo = ((c : Int) ^ 2 * lo + (c : Int) ^ 2 / 2) / (c : Int) ^ 2 := (round_const pos lo).symm
      _ ≤ _ := Int.ediv_le_ediv pos (by omega)
  · calc _ ≤ ((c : Int) ^ 2 * hi + (c : Int) ^ 2 / 2) / (c : Int) ^ 2 := Int.ediv_le_ediv pos (by omega)
      _ = hi := round_const pos hi

end Bilinear

/-- Settles O25: the weights are products of what lies before and behind the pixel in its cell, and the rounded mean keeps the
corners' bounds. -/
theorem interpolationStaysBetweenCorners : Obligations.InterpolationStaysBetweenCorners := by
  refine ⟨fun c fx fy v00 v10 v01 v11 inX inY => ?_, fun bank c u v => rfl⟩
  have x : (0 : Int) ≤ c - fx := by omega
  have y : (0 : Int) ≤ c - fy := by omega
  have between := bilinear_bounds inX inY (v00 := v00) (v10 := v10) (v01 := v01) (v11 := v11)
    (lo := min (min v00 v10) (min v01 v11)) (hi := max (max v00 v10) (max v01 v11)) (by simp)
  refine ⟨⟨by positivity, by positivity, by positivity, by positivity, by ring⟩, bilinear_eq c fx fy v00 v10 v01 v11, between.1,
    between.2, bilinear_bounds inX inY, bilinear_of_exact (by omega) (by push_cast; ring)⟩

/-! ## Taps (R27, R28) -/

/-- Whole pixels and sixteenths of a source coordinate (R27). -/
theorem coordinate_split (x : Int) : x = 16 * (x / 16) + (x % 16).toNat ∧ (x % 16).toNat ≤ 15 := by omega

/-- The four weights of a coordinate are the products of two splits of 16, so they sum to 256 (R27). -/
theorem tapWeights_sum (sx sy : Int) : ((tapPlaces sx sy).map fun p => p.2.2).sum = 256 := by
  have x := (coordinate_split sx).2
  have y := (coordinate_split sy).2
  simp only [tapPlaces, List.map_cons, List.map_nil, List.sum_cons, List.sum_nil]
  generalize (sx % 16).toNat = ax at x ⊢
  generalize (sy % 16).toNat = ay at y ⊢
  calc _ = ((16 - ax) + ax) * ((16 - ay) + ay) := by ring
    _ = 16 * 16 := by rw [Nat.sub_add_cancel (by omega), Nat.sub_add_cancel (by omega)]

/-- Terms that are 0 can be left out of a sum. -/
theorem sum_map_filter_of_zero {α : Type} {l : List α} {keep : α → Bool} {f : α → Nat}
    (zero : ∀ a ∈ l, keep a = false → f a = 0) : ((l.filter keep).map f).sum = (l.map f).sum := by
  induction l with
  | nil => rfl
  | cons a l ih =>
    have rest := ih fun b member => zero b (List.mem_cons_of_mem a member)
    rw [List.filter_cons]
    split
    · simp [rest]
    · rename_i out
      simp [rest, zero a List.mem_cons_self (by simpa using out)]

/-- What is summed over the fetched taps of a coordinate, each with its weight as a factor, is the sum over its four places: a tap
that is not fetched has weight 0 (R28). -/
theorem sampleAt_sum (v : View) (h : MeshHeader) (sx sy : Int) (f : Pixel × Bool → Nat) :
    ((sampleAt v h sx sy).map fun t => t.weight * f (t.value, t.missed)).sum =
      ((tapPlaces sx sy).map fun p => p.2.2 * f (fetchTap v h p.1 p.2.1)).sum := by
  rw [sampleAt, List.map_map]
  exact sum_map_filter_of_zero fun p _ unfetched => by simp [show p.2.2 = 0 by simpa using unfetched]

/-- A fetched tap is what a place of weight above 0 gives (R28). -/
theorem mem_sampleAt {v : View} {h : MeshHeader} {sx sy : Int} {t : Tap} :
    t ∈ sampleAt v h sx sy ↔
      ∃ row col, (row, col, t.weight) ∈ tapPlaces sx sy ∧ t.weight ≠ 0 ∧ fetchTap v h row col = (t.value, t.missed) := by
  simp only [sampleAt, List.mem_map, List.mem_filter]
  constructor
  · rintro ⟨⟨row, col, weight⟩, ⟨place, fetched⟩, rfl⟩
    exact ⟨row, col, place, by simpa using fetched, rfl⟩
  · rintro ⟨row, col, place, fetched, value⟩
    exact ⟨(row, col, t.weight), ⟨place, by simpa using fetched⟩, by simp [value]⟩

/-- A coordinate on a whole pixel both ways has one fetched tap, on one alone two, on neither four (R28). -/
theorem sampleAt_length (v : View) (h : MeshHeader) (sx sy : Int) :
    (sampleAt v h sx sy).length =
      if (sx % 16).toNat = 0 ∧ (sy % 16).toNat = 0 then 1 else if (sx % 16).toNat = 0 ∨ (sy % 16).toNat = 0 then 2 else 4 := by
  have x := (coordinate_split sx).2
  have y := (coordinate_split sy).2
  rw [sampleAt, List.length_map, tapPlaces]
  generalize (sx % 16).toNat = ax at x ⊢
  generalize (sy % 16).toNat = ay at y ⊢
  have right : 16 - ax ≠ 0 := by omega
  have down : 16 - ay ≠ 0 := by omega
  by_cases wholeX : ax = 0 <;> by_cases wholeY : ay = 0 <;> simp [List.filter_cons, wholeX, wholeY, right, down]

/-- Settles O26: the weights of the four places sum to 256, and leaving out those of weight 0 keeps the sum. -/
theorem fetchedTapWeightsSumTo256 : Obligations.FetchedTapWeightsSumTo256 := by
  intro v h sx sy
  have sum := sampleAt_sum v h sx sy fun _ => 1
  simp only [mul_one, tapWeights_sum] at sum
  refine ⟨rfl, (coordinate_split sx).1, (coordinate_split sx).2, (coordinate_split sy).1, (coordinate_split sy).2, sum,
    fun t fetched => ?_, sampleAt_length v h sx sy⟩
  obtain ⟨-, -, -, weight, -⟩ := mem_sampleAt.1 fetched
  exact weight

/-! ## Formed lines -/

/-- What the warp unit hands over for pixel `u` of output line `y` of a head (R23, R24). -/
def sampleOf (view : View) (head : Head) (y u : Nat) : Sample :=
  samplePixel view head.pairs.mesh.live (meshCell head.timing) u y

/-- The pixels of a formed line, one by one (R64). -/
theorem formLine_pixels (view : View) (head : Head) (y : Nat) :
    (formLine view head y).1 = (List.range head.timing.width).map fun u => lightPixel head u y (sampleOf view head y u) := by
  simp only [formLine, List.zipWith_map_right, List.zipWith_self]
  rfl

/-- A formed line holds a reach miss where a sample of it does (R35). -/
theorem formLine_missed (view : View) (head : Head) (y : Nat) :
    (formLine view head y).2 = true ↔ ∃ u < head.timing.width, sampleMissed (sampleOf view head y u) = true := by
  simp [formLine, sampleOf]

/-- A sample misses where one of its taps does; a blank one has none (R26, R35). -/
theorem sampleMissed_iff (x : Sample) : sampleMissed x = true ↔ ∃ ts t, x = .taps ts ∧ t ∈ ts ∧ t.missed = true := by
  cases x <;> simp [sampleMissed]

theorem cellBlank_iff (bank : Bank) (c u v : Nat) :
    cellBlank bank c u v = true ↔
      (bankPoint bank (u / c) (v / c)).blank = true ∨ (bankPoint bank (u / c + 1) (v / c)).blank = true ∨
        (bankPoint bank (u / c) (v / c + 1)).blank = true ∨ (bankPoint bank (u / c + 1) (v / c + 1)).blank = true := by
  simp [cellBlank, or_assoc]

theorem samplePixel_of_unblank {view : View} {bank : Bank} {c u v : Nat} (unblank : ¬cellBlank bank c u v = true) :
    samplePixel view bank c u v = .taps (sampleAt view (bankHeader bank) (sourceCoordinate bank c u v).1
      (sourceCoordinate bank c u v).2) := if_neg unblank

/-- The tap filter over the four places of a coordinate (R42). -/
theorem tapFilter_sampleAt (view : View) (h : MeshHeader) (sx sy : Int) (channel : Pixel → Nat) :
    tapFilter channel (sampleAt view h sx sy) =
      (((tapPlaces sx sy).map fun p => p.2.2 * channel (fetchTap view h p.1 p.2.1).1).sum + 128) / 256 := by
  rw [tapFilter, sampleAt_sum view h sx sy fun f => channel f.1]

theorem bankPoint_of_stored {bank : Bank} {i j : Nat} {row : List MeshPoint} {p : MeshPoint}
    (segment : bank[j + 1]? = some (.points row)) (entry : row[i]? = some p) : bankPoint bank i j = p := by
  simp [bankPoint, segment, List.getD_eq_getElem?_getD, entry]

/-- Settles O28: a formed line pixel by pixel, a pixel by its cell's corners, and a tap filter over the four places. -/
theorem formedLineSamplesEveryPixel : Obligations.FormedLineSamplesEveryPixel := by
  refine ⟨fun view head y => ⟨?_, fun u inLine => ?_, ?_⟩, fun _ _ _ => rfl,
    fun view bank c u v => ⟨fun blank => ?_, fun unblank => ?_⟩,
    fun view h sx sy channel => ⟨?_, fun t => mem_sampleAt⟩, fun bank h first => ?_,
    fun bank i j row p => bankPoint_of_stored⟩
  · rw [formLine_pixels, List.length_map, List.length_range]
  · rw [formLine_pixels, List.getElem?_map, List.getElem?_range inLine]
    rfl
  · simp only [formLine_missed, sampleMissed_iff, ← exists_and_left]
    rfl
  · exact if_pos ((cellBlank_iff bank c u v).2 blank)
  · exact samplePixel_of_unblank (mt (cellBlank_iff bank c u v).1 unblank)
  · rw [tapFilter_sampleAt]
    simp only [tapPlaces, List.map_cons, List.map_nil, List.sum_cons, List.sum_nil, add_zero, ← add_assoc]
  · simp [bankHeader, List.head?_eq_getElem?, first]

/-! ## The identity mesh (R22) -/

theorem meshCell_pos (t : Timing) : 0 < meshCell t := Nat.two_pow_pos _

theorem blendCell_pos (t : Timing) : 0 < blendCell t := Nat.two_pow_pos _

/-- The right or lower corner of a pixel's cell still lies on the grid (R18, R24). -/
theorem corner_inGrid {u size c : Nat} (cell : 0 < c) (inside : u < size) : u / c + 1 < ceilDiv size c + 1 := by
  have next : (u + c) / c ≤ ceilDiv size c := Nat.div_le_div_right (by omega)
  rw [Nat.add_div_right u cell] at next
  omega

theorem bankHeader_identityMesh (t : Timing) (ox oy wx wy : Nat) :
    bankHeader (identityMesh t ox oy wx wy) = clampHeader ox oy wx wy .extend := rfl

theorem bankPoint_identityMesh {t : Timing} (ox oy wx wy : Nat) {i j : Nat} (across : i < meshAcross t) (down : j < meshDown t) :
    bankPoint (identityMesh t ox oy wx wy) i j =
      { sx := ((min ox 4095 + i * meshCell t) * 16 : Nat), sy := ((min oy 2303 + j * meshCell t) * 16 : Nat), blank := false } := by
  simp [bankPoint, identityMesh, clampHeader, across, down]

/-- What holds of a cell's corners, each 0 or 1 steps to the right and down, holds of the four. -/
theorem forall_corners {P : Nat → Nat → Prop} (all : ∀ m n, m ≤ 1 → n ≤ 1 → P m n) : P 0 0 ∧ P 1 0 ∧ P 0 1 ∧ P 1 1 :=
  ⟨all 0 0 (by omega) (by omega), all 1 0 (by omega) (by omega), all 0 1 (by omega) (by omega), all 1 1 (by omega) (by omega)⟩

/-- Over corners that step by the cell from left to right, the mean is exact: the pixel's own place (R25). -/
theorem bilinear_across {c : Nat} (cell : 0 < c) (fx fy o i : Nat) :
    bilinear c fx fy ((o + i * c) * 16 : Nat) ((o + (i + 1) * c) * 16 : Nat) ((o + i * c) * 16 : Nat)
      ((o + (i + 1) * c) * 16 : Nat) = ((o + (i * c + fx)) * 16 : Nat) := by
  refine bilinear_of_exact cell ?_
  push_cast
  ring

theorem bilinear_down {c : Nat} (cell : 0 < c) (fx fy o j : Nat) :
    bilinear c fx fy ((o + j * c) * 16 : Nat) ((o + j * c) * 16 : Nat) ((o + (j + 1) * c) * 16 : Nat)
      ((o + (j + 1) * c) * 16 : Nat) = ((o + (j * c + fy)) * 16 : Nat) := by
  refine bilinear_of_exact cell ?_
  push_cast
  ring

/-- A coordinate on a whole pixel fetches that pixel alone, with the whole weight (R27, R28). -/
theorem sampleAt_of_whole (view : View) (h : MeshHeader) (col row : Nat) :
    sampleAt view h ((col * 16 : Nat) : Int) ((row * 16 : Nat) : Int) =
      [{ weight := 256, value := (fetchTap view h row col).1, missed := (fetchTap view h row col).2 }] := by
  have places : tapPlaces ((col * 16 : Nat) : Int) ((row * 16 : Nat) : Int) =
      [((row : Int), (col : Int), 256), ((row : Int), (col : Int) + 1, 0), ((row : Int) + 1, (col : Int), 0),
        ((row : Int) + 1, (col : Int) + 1, 0)] := by
    simp [tapPlaces]
  rw [sampleAt, places]
  rfl

section Identity
variable {t : Timing} {u v : Nat} (ox oy wx wy : Nat) (inWidth : u < t.width) (inHeight : v < t.height)
include inWidth inHeight

/-- The corners of a pixel's cell under an identity mesh: `m`, `n` 0 or 1 (R22, R24). -/
theorem corner_identityMesh {m n : Nat} (right : m ≤ 1) (down : n ≤ 1) :
    bankPoint (identityMesh t ox oy wx wy) (u / meshCell t + m) (v / meshCell t + n) =
      { sx := ((min ox 4095 + (u / meshCell t + m) * meshCell t) * 16 : Nat)
        sy := ((min oy 2303 + (v / meshCell t + n) * meshCell t) * 16 : Nat), blank := false } := by
  have cell := meshCell_pos t
  have across := corner_inGrid cell inWidth
  have below := corner_inGrid cell inHeight
  exact bankPoint_identityMesh ox oy wx wy (by unfold meshAcross; omega) (by unfold meshDown; omega)

theorem sourceCoordinate_identityMesh :
    sourceCoordinate (identityMesh t ox oy wx wy) (meshCell t) u v =
      ((((min ox 4095 + u) * 16 : Nat) : Int), (((min oy 2303 + v) * 16 : Nat) : Int)) := by
  have cell := meshCell_pos t
  obtain ⟨p00, p10, p01, p11⟩ := forall_corners fun m n => corner_identityMesh ox oy wx wy inWidth inHeight (m := m) (n := n)
  simp only [Nat.add_zero] at p00 p10 p01 p11
  simp only [sourceCoordinate, p00, p10, p01, p11, bilinear_across cell, bilinear_down cell, Nat.div_add_mod']

theorem cellBlank_identityMesh : cellBlank (identityMesh t ox oy wx wy) (meshCell t) u v = false := by
  obtain ⟨p00, p10, p01, p11⟩ := forall_corners fun m n => corner_identityMesh ox oy wx wy inWidth inHeight (m := m) (n := n)
  simp only [Nat.add_zero] at p00 p10 p01 p11
  simp [cellBlank, p00, p10, p01, p11]

/-- Under an identity mesh every pixel samples its own input pixel with the whole weight (R22). -/
theorem samplePixel_identityMesh (view : View) :
    samplePixel view (identityMesh t ox oy wx wy) (meshCell t) u v =
      let input := fetchTap view (clampHeader ox oy wx wy .extend) (min oy 2303 + v : Nat) (min ox 4095 + u : Nat)
      .taps [{ weight := 256, value := input.1, missed := input.2 }] := by
  rw [samplePixel_of_unblank (by simp [cellBlank_identityMesh ox oy wx wy inWidth inHeight]),
    sourceCoordinate_identityMesh ox oy wx wy inWidth inHeight, bankHeader_identityMesh, sampleAt_of_whole]

end Identity

/-! ## The unity blend (R50) -/

theorem bankBlend_unityBlend {t : Timing} {m n : Nat} (across : m < blendAcross t) (down : n < blendDown t) :
    bankBlend (unityBlend t) m n = { weight := 4096, lift := none } := by
  simp [bankBlend, unityBlend, across, down]

theorem bilinear_const {c : Nat} (cell : 0 < c) (fx fy : Nat) (v : Int) : bilinear c fx fy v v v v = v := by
  rw [bilinear_eq, cornerSum_const, round_const (by positivity)]

section Unity
variable {t : Timing} {u v : Nat} (inWidth : u < t.width) (inHeight : v < t.height)
include inWidth inHeight

theorem corner_unityBlend {m n : Nat} (right : m ≤ 1) (down : n ≤ 1) :
    bankBlend (unityBlend t) (u / blendCell t + m) (v / blendCell t + n) = { weight := 4096, lift := none } := by
  have cell := blendCell_pos t
  have across := corner_inGrid cell inWidth
  have below := corner_inGrid cell inHeight
  exact bankBlend_unityBlend (by unfold blendAcross; omega) (by unfold blendDown; omega)

theorem blendWeight_unityBlend : blendWeight (unityBlend t) (blendCell t) u v = 4096 := by
  have cell := blendCell_pos t
  obtain ⟨p00, p10, p01, p11⟩ := forall_corners fun m n => corner_unityBlend inWidth inHeight (m := m) (n := n)
  simp only [blendWeight, p00, p10, p01, p11, bilinear_const cell]
  rfl

theorem blendLift_unityBlend : blendLift (unityBlend t) (blendCell t) u v = 0 := by
  have cell := blendCell_pos t
  obtain ⟨p00, p10, p01, p11⟩ := forall_corners fun m n => corner_unityBlend inWidth inHeight (m := m) (n := n)
  simp only [blendLift, p00, p10, p01, p11, bilinear_const cell]
  rfl

end Unity

/-! ## The straight light path (R44, R45, R57) -/

/-- A table kept in `n` segments of 64 entries gives out each entry as it was put in (R43, R56). -/
theorem bankValue_of_segments {n : Nat} (f : Nat → Nat) {e : Nat} (inTable : e < 64 * n) :
    bankValue ((List.range n).map fun s => .values ((List.range 64).map fun i => f (64 * s + i))) e = f e := by
  have segment : e / 64 < n := by omega
  have entry : e % 64 < 64 := by omega
  simp [bankValue, segment, entry, List.getD_eq_getElem?_getD, Nat.div_add_mod]

theorem bankValue_defaultDecode {e : Nat} (code : e ≤ 1023) : bankValue defaultDecode e = e * 65535 / 1023 :=
  bankValue_of_segments (n := 16) (fun e => e * 65535 / 1023) (by omega)

theorem bankValue_defaultEncode {j : Nat} (index : j ≤ 4095) : bankValue defaultEncode j = (j * 1023 + 2047) / 4095 :=
  bankValue_of_segments (n := 64) (fun j => (j * 1023 + 2047) / 4095) (by omega)

/-- Gain 4096, offset 0 and weight 4096 are each a factor of one, and no lift adds nothing (R45, R53, R54). -/
theorem lightChannel_unity {decode : Bank} {e : Nat} (encode : Bank) (light : bankValue decode e ≤ 65535) :
    lightChannel decode encode 4096 0 4096 0 e = bankValue encode (bankValue decode e / 16) := by
  have trimmed : trimLight 4096 0 (bankValue decode e) = bankValue decode e := by
    simp only [trimLight]
    omega
  have weighted : weightLight (bankValue decode e) 4096 = bankValue decode e := by
    simp only [weightLight]
    omega
  simp [lightChannel, trimmed, weighted, taperLift, light]

theorem lightChannel_default {e : Nat} (code : e ≤ 1023) : lightChannel defaultDecode defaultEncode 4096 0 4096 0 e = e := by
  have light := bankValue_defaultDecode code
  rw [lightChannel_unity defaultEncode (by omega), light, bankValue_defaultEncode (by omega)]
  omega

theorem tapFilter_of_whole (channel : Pixel → Nat) (p : Pixel) (missed : Bool) :
    tapFilter channel [{ weight := 256, value := p, missed := missed }] = channel p := by
  simp only [tapFilter, List.map_cons, List.map_nil, List.sum_cons, List.sum_nil]
  omega

/-- Under the unity blend and the default decode, encode and trim, a tap of the whole weight keeps its codes. -/
theorem lightPixel_default {h : Head} {u v : Nat} (inWidth : u < h.timing.width) (inHeight : v < h.timing.height)
    (blend : h.pairs.blend.live = unityBlend h.timing) (decode : h.pairs.decode.live = defaultDecode)
    (encode : h.pairs.encode.live = defaultEncode) (trim : h.pairs.trim.live = defaultTrim) {p : Pixel} (missed : Bool)
    (r : p.r ≤ 1023) (g : p.g ≤ 1023) (b : p.b ≤ 1023) :
    lightPixel h u v (.taps [{ weight := 256, value := p, missed := missed }]) = p := by
  have trimmed : bankTrim h.pairs.trim.live = { gain := ⟨4096, 4096, 4096⟩, offset := ⟨0, 0, 0⟩, fill := ⟨0, 0, 0⟩ } := by
    rw [trim]
    rfl
  simp only [lightPixel, trimmed, blend, decode, encode, blendWeight_unityBlend inWidth inHeight,
    blendLift_unityBlend inWidth inHeight, tapFilter_of_whole, lightChannel_default r, lightChannel_default g,
    lightChannel_default b]

/-- Settles O30: the identity mesh samples the pixel itself, and each stage of the light path keeps its codes. -/
theorem identityTablesShowInputUnchanged : Obligations.IdentityTablesShowInputUnchanged := by
  refine ⟨fun t ox oy wx wy u v view inWidth inHeight => ⟨rfl, fun i j across down => ?_, ?_, ?_, ?_⟩,
    fun t u v inWidth inHeight => ⟨fun m n across down => bankBlend_unityBlend across down,
      blendWeight_unityBlend inWidth inHeight, blendLift_unityBlend inWidth inHeight⟩,
    fun e => lightChannel_default, fun h ox oy wx wy u v view inWidth inHeight mesh blend decode encode trim => ?_⟩
  · exact bankPoint_identityMesh ox oy wx wy across down
  · exact sourceCoordinate_identityMesh ox oy wx wy inWidth inHeight
  · exact cellBlank_identityMesh ox oy wx wy inWidth inHeight
  · exact samplePixel_identityMesh ox oy wx wy inWidth inHeight view
  · have codes {p : Pixel} (missed : Bool) := lightPixel_default inWidth inHeight blend decode encode trim (p := p) missed
    refine ⟨fun p missed => codes missed, fun p missed r g b fetched => ?_⟩
    rw [mesh, bankHeader_identityMesh] at fetched
    rw [formLine_pixels, List.getElem?_map, List.getElem?_range inWidth, Option.map_some, sampleOf, mesh,
      samplePixel_identityMesh ox oy wx wy inWidth inHeight view, fetched, codes missed r g b]

end Sys2Proof.Proofs
end

section
/-! What one head does at each event handed to it (chapter 4): the fields of a head after a swap, a frame's lines and its end, and
that a legal head stays legal with its reach-miss counts bounded. -/

namespace Sys2Proof.Proofs

open Sys2Proof.Machine Sys2Proof.Safety Sys2Proof.Laws

/-! ## The parts of an event -/

/-- What holds of a head, swapped or not, holds of it after a possible swap. -/
theorem swapWhen_head {P : Head → Prop} {due : ArmedCommit → Bool} {r : HeadRun} (holds : P r.head)
    (swap : ∀ c h, P h → P (swapHead c h)) : P (swapWhen due r).head := by
  obtain ⟨same, -⟩ | ⟨c, -, -, swapped⟩ := swapWhen_cases due r
  · rwa [same]
  · rw [swapped]
    exact swap c _ holds

/-- The timing and the counters of a head are in range, whatever its state. -/
def InRange (h : Head) : Prop :=
  timingInRange h.timing = true ∧ meshFits h.timing = true ∧ blendFits h.timing = true ∧ h.missTotal ≤ 65535 ∧
    h.shortFrames ≤ 65535

theorem headLegal_iff (h : Head) :
    HeadLegal h ↔ InRange h ∧ (h.fillTimer.isSome = true ↔ h.state = .fill) ∧ h.nextLine ≤ h.timing.height ∧
      (h.stopPending = true → h.state = .run ∧ h.nextLine < h.timing.height) :=
  ⟨fun ⟨timing, mesh, blend, timer, line, stop, counts⟩ => ⟨⟨timing, mesh, blend, counts⟩, timer, line, stop⟩,
    fun ⟨⟨timing, mesh, blend, counts⟩, timer, line, stop⟩ => ⟨timing, mesh, blend, timer, line, stop, counts⟩⟩

theorem inRange_of_legal {h : Head} (legal : HeadLegal h) : InRange h := ((headLegal_iff h).1 legal).1

theorem nextLine_le_of_legal {h : Head} (legal : HeadLegal h) : h.nextLine ≤ h.timing.height := ((headLegal_iff h).1 legal).2.2.1

/-- A legal head that is not in RUN is not stopping (R79). -/
theorem stopPending_of_legal {h : Head} (legal : HeadLegal h) (idle : h.state ≠ .run) : h.stopPending = false := by
  obtain ⟨-, -, -, stop⟩ := (headLegal_iff h).1 legal
  exact Bool.eq_false_iff.2 fun pending => idle (stop pending).1

/-- A timing in range has output lines (R60). -/
theorem InRange.height_pos {h : Head} (range : InRange h) : 0 < h.timing.height := by
  obtain ⟨timing, -⟩ := range
  simp only [timingInRange, Bool.and_eq_true, decide_eq_true_eq] at timing
  omega

theorem headLegal_swapHead (c : ArmedCommit) (h : Head) (legal : HeadLegal h) : HeadLegal (swapHead c h) := legal

theorem missCountsBounded_swapHead (c : ArmedCommit) (h : Head) (bounded : MissCountsBounded h) :
    MissCountsBounded (swapHead c h) := bounded

/-- A head that has released lines since `h`: of its fields, the next line and the counts alone have changed, the next line stays
within H_out, and each line released has counted at most one miss (R35, R63, R66). -/
structure Released (h h' : Head) : Prop where
  kept : h' = { h with nextLine := h'.nextLine, missRunning := h'.missRunning, missTotal := h'.missTotal,
                       shortFrames := h'.shortFrames }
  line : h.nextLine ≤ h'.nextLine
  lineBound : h'.nextLine ≤ max h.nextLine h.timing.height
  missRunning : h'.missRunning ≤ h.missRunning + (h'.nextLine - h.nextLine)
  missTotal : h.missTotal ≤ 65535 → h'.missTotal ≤ 65535
  shortFrames : h.shortFrames ≤ 65535 → h'.shortFrames ≤ 65535

theorem released_refl (h : Head) : Released h h := ⟨rfl, le_rfl, le_max_left _ _, Nat.le_add_right _ _, id, id⟩

/-- Lines formed within a head's owed ones. -/
theorem formLines_released (view : View) {ys : List Nat} {r : HeadRun}
    (owed : ys.length ≤ r.head.timing.height - r.head.nextLine) : Released r.head (formLines view ys r).head := by
  have misses := formLines_missRunning_le view ys r
  refine ⟨rfl, ?_, ?_, ?_, fun _ => min_le_left _ _, id⟩ <;> simp only [formLines] at misses ⊢ <;> omega

theorem fillOwed_released {r : HeadRun} (owed : r.head.nextLine ≤ r.head.timing.height) : Released r.head (fillOwed r).head :=
  ⟨rfl, owed, le_max_right _ _, Nat.le_add_right _ _, id, id⟩

theorem countShort_released {h : Head} {r : HeadRun} (released : Released h r.head) : Released h (countShort r).head := by
  obtain ⟨kept, line, lineBound, running, total, -⟩ := released
  refine ⟨?_, line, lineBound, running, total, fun _ => min_le_left _ _⟩
  simp only [countShort]
  rw [kept]

/-- The end of an input frame releases the owed lines. -/
theorem endFrame_released (view : View) (asFill : Bool) (r : HeadRun) : Released r.head (endFrame view asFill r).head := by
  unfold endFrame
  split
  · refine countShort_released ?_
    split
    · exact fillOwed_released (by omega)
    · exact formLines_released view (by simp [owedLines])
  · exact released_refl _

section Released
variable {h h' : Head} (released : Released h h')
include released

theorem Released.timing : h'.timing = h.timing := by rw [released.kept]
theorem Released.state : h'.state = h.state := by rw [released.kept]
theorem Released.stopPending : h'.stopPending = h.stopPending := by rw [released.kept]
theorem Released.fillTimer : h'.fillTimer = h.fillTimer := by rw [released.kept]
theorem Released.missLatched : h'.missLatched = h.missLatched := by rw [released.kept]

theorem Released.inRange (range : InRange h) : InRange h' := by
  obtain ⟨timing, mesh, blend, total, short⟩ := range
  rw [← released.timing] at timing mesh blend
  exact ⟨timing, mesh, blend, released.missTotal total, released.shortFrames short⟩

/-- A legal head's next line stays within its lines. -/
theorem Released.nextLine_le (legal : HeadLegal h) : h'.nextLine ≤ h'.timing.height := by
  rw [released.timing]
  exact released.lineBound.trans (max_le (nextLine_le_of_legal legal) le_rfl)

/-- A running head's running miss count stays within the lines it has released. -/
theorem Released.missRunning_le (bounded : MissCountsBounded h) (run : h.state = .run) : h'.missRunning ≤ h'.nextLine := by
  obtain ⟨-, -, released'⟩ := bounded
  have before := released' run
  have line := released.line
  have misses := released.missRunning
  omega

end Released

/-- A head whose counters are in range is legal once parked (R81). -/
theorem park_legal {r : HeadRun} (range : InRange r.head) : HeadLegal (park r).head := by
  refine swapWhen_head ((headLegal_iff _).2 ⟨range, ?_, Nat.zero_le _, ?_⟩) headLegal_swapHead
  · simp
  · simp

theorem park_bounded {r : HeadRun} (misses : r.head.missRunning ≤ r.head.timing.height) : MissCountsBounded (park r).head :=
  swapWhen_head (P := MissCountsBounded) ⟨Nat.zero_le _, misses, fun _ => Nat.zero_le _⟩ missCountsBounded_swapHead

theorem park_state (r : HeadRun) : (park r).head.state = .parked :=
  swapWhen_head (P := fun h => h.state = .parked) rfl fun _ _ => id

/-- A head whose counters are in range and whose timer and flag agree with its state is legal at a frame start (R68). -/
theorem headFrameStart_legal {frame : Option Byte} {r : HeadRun} (range : InRange r.head)
    (timer : r.head.fillTimer.isSome = true ↔ r.head.state = .fill)
    (stop : r.head.stopPending = true → r.head.state = .run) : HeadLegal (headFrameStart frame r).head := by
  refine swapWhen_head (P := fun h => HeadLegal { h with nextLine := 0 }) ((headLegal_iff _).2 ⟨range, timer, Nat.zero_le _, ?_⟩)
    fun c h => headLegal_swapHead c { h with nextLine := 0 }
  exact fun pending => ⟨stop pending, range.height_pos⟩

theorem headFrameStart_bounded {frame : Option Byte} {r : HeadRun} (misses : r.head.missRunning ≤ r.head.timing.height) :
    MissCountsBounded (headFrameStart frame r).head :=
  swapWhen_head (P := fun h => MissCountsBounded { h with nextLine := 0 }) ⟨Nat.zero_le _, misses, fun _ => Nat.zero_le _⟩
    fun c h => missCountsBounded_swapHead c { h with nextLine := 0 }

theorem headFrameStart_state (frame : Option Byte) (r : HeadRun) : (headFrameStart frame r).head.state = r.head.state :=
  swapWhen_head (P := fun h => h.state = r.head.state) rfl fun _ _ => id

/-! ## The events -/

theorem dueLines_length_le (view : View) (n : Nat) (h : Head) : (dueLines view n h).length ≤ h.timing.height - h.nextLine := by
  have within := (List.takeWhile_sublist (l := owedLines h)
    (fun y => decide (min (releaseLine h.timing y) (view.height - 1) ≤ n))).length_le
  exact within.trans_eq (by simp [owedLines])

theorem takeLine_legal (view : View) (n : Nat) {h : Head} (legal : HeadLegal h) : HeadLegal (takeLine view n h).head := by
  have released := formLines_released view (r := beginRun h) (dueLines_length_le view n h)
  unfold takeLine
  split
  case h_1 run =>
    dsimp only
    split
    · exact park_legal (released.inRange (inRange_of_legal legal))
    · rename_i goesOn
      obtain ⟨-, timer, -, stop⟩ := (headLegal_iff h).1 legal
      refine (headLegal_iff _).2 ⟨released.inRange (inRange_of_legal legal), timer, released.nextLine_le legal, fun pending => ?_⟩
      have pending' : h.stopPending = true := pending
      refine ⟨run, ?_⟩
      rw [pending'] at goesOn
      rw [released.timing]
      show _ < h.timing.height
      simpa using goesOn
  all_goals exact legal

theorem takeLine_bounded (view : View) (n : Nat) {h : Head} (legal : HeadLegal h) (bounded : MissCountsBounded h) :
    MissCountsBounded (takeLine view n h).head := by
  have released := formLines_released view (r := beginRun h) (dueLines_length_le view n h)
  unfold takeLine
  split
  case h_1 run =>
    have misses := released.missRunning_le bounded run
    have line := released.nextLine_le legal
    dsimp only
    split
    · exact park_bounded (misses.trans line)
    · exact ⟨misses.trans line, bounded.2.1, fun _ => misses⟩
  all_goals exact bounded

theorem takeFrameStart_legal (view : View) (regain : Bool) (frame : Byte) {h : Head} (legal : HeadLegal h) :
    HeadLegal (takeFrameStart view regain frame h).head := by
  obtain ⟨range, timer, line, stop⟩ := (headLegal_iff h).1 legal
  unfold takeFrameStart
  split
  case h_1 parked => exact swapWhen_head legal headLegal_swapHead
  case h_2 priming =>
    refine headFrameStart_legal range ?_ fun _ => rfl
    simpa [priming, beginRun] using timer
  case h_3 fill =>
    exact headFrameStart_legal range (by simp [beginRun]) fun _ => rfl
  case h_4 run =>
    have released := endFrame_released view regain (beginRun h)
    dsimp only
    split
    · exact swapWhen_head (park_legal (released.inRange range)) headLegal_swapHead
    · refine headFrameStart_legal (released.inRange range) ?_ fun _ => released.state.trans run
      rw [released.fillTimer, released.state]
      exact timer

theorem takeFrameStart_bounded (view : View) (regain : Bool) (frame : Byte) {h : Head} (legal : HeadLegal h)
    (bounded : MissCountsBounded h) : MissCountsBounded (takeFrameStart view regain frame h).head := by
  unfold takeFrameStart
  split
  case h_1 parked => exact swapWhen_head bounded missCountsBounded_swapHead
  case h_2 priming => exact headFrameStart_bounded bounded.1
  case h_3 fill => exact headFrameStart_bounded bounded.1
  case h_4 run =>
    have released := endFrame_released view regain (beginRun h)
    have misses := (released.missRunning_le bounded run).trans (released.nextLine_le legal)
    dsimp only
    split
    · exact swapWhen_head (park_bounded misses) missCountsBounded_swapHead
    · exact headFrameStart_bounded misses

theorem enterFill_legal {h : Head} (range : InRange h) (line : h.nextLine ≤ h.timing.height) (stop : h.stopPending = false) :
    HeadLegal (enterFill h) := by
  refine (headLegal_iff _).2 ⟨range, ?_, line, ?_⟩
  · simp [enterFill]
  · simp [enterFill, stop]

theorem enterFill_bounded {h : Head} (running : h.missRunning ≤ h.timing.height) (latched : h.missLatched ≤ h.timing.height) :
    MissCountsBounded (enterFill h) := ⟨running, latched, by simp [enterFill]⟩

theorem takeAbsence_legal (view : View) {h : Head} (legal : HeadLegal h) : HeadLegal (takeAbsence view h).head := by
  obtain ⟨range, -, line, -⟩ := (headLegal_iff h).1 legal
  unfold takeAbsence
  split
  case h_1 parked => exact legal
  case h_2 fill => exact legal
  case h_3 priming => exact enterFill_legal range line (stopPending_of_legal legal (by simp [priming]))
  case h_4 run =>
    have released := endFrame_released view true (beginRun h)
    dsimp only
    split
    · exact park_legal (released.inRange range)
    · rename_i goesOn
      exact enterFill_legal (released.inRange range) (released.nextLine_le legal)
        (released.stopPending.trans (Bool.eq_false_iff.2 goesOn))

theorem takeAbsence_bounded (view : View) {h : Head} (legal : HeadLegal h) (bounded : MissCountsBounded h) :
    MissCountsBounded (takeAbsence view h).head := by
  unfold takeAbsence
  split
  case h_1 parked => exact bounded
  case h_2 fill => exact bounded
  case h_3 priming => exact enterFill_bounded bounded.1 bounded.2.1
  case h_4 run =>
    have released := endFrame_released view true (beginRun h)
    have misses := (released.missRunning_le bounded run).trans (released.nextLine_le legal)
    dsimp only
    split
    · exact park_bounded misses
    · refine enterFill_bounded misses ?_
      rw [released.missLatched, released.timing]
      exact bounded.2.1

theorem takeAbsence_state_ne_run (view : View) (h : Head) : (takeAbsence view h).head.state ≠ .run := by
  unfold takeAbsence
  split
  case h_1 parked => simp [beginRun, parked]
  case h_2 fill => simp [beginRun, fill]
  case h_3 priming => simp [beginRun, enterFill]
  case h_4 run =>
    dsimp only
    split
    · simp [park_state]
    · simp [enterFill]

theorem takeFillTimer_legal {h : Head} (legal : HeadLegal h) (fill : h.state = .fill) : HeadLegal (takeFillTimer h).head := by
  obtain ⟨-, timer, -, -⟩ := (headLegal_iff h).1 legal
  have started : HeadLegal (headFrameStart none (beginRun h)).head := headFrameStart_legal (inRange_of_legal legal) timer
    fun pending => absurd (stopPending_of_legal legal (by simp [fill])) (by simpa [beginRun] using pending)
  have state : (headFrameStart none (beginRun h)).head.state = .fill := (headFrameStart_state none _).trans fill
  have filled := fillOwed_released (nextLine_le_of_legal started)
  have stop := stopPending_of_legal started (by simp [state])
  exact (headLegal_iff _).2 ⟨filled.inRange (inRange_of_legal started), iff_of_true rfl (filled.state.trans state),
    filled.nextLine_le started, fun pending => (Bool.eq_false_iff.1 (filled.stopPending.trans stop) pending).elim⟩

theorem takeFillTimer_bounded {h : Head} (bounded : MissCountsBounded h) (fill : h.state = .fill) :
    MissCountsBounded (takeFillTimer h).head := by
  have started : MissCountsBounded (headFrameStart none (beginRun h)).head := headFrameStart_bounded bounded.1
  have state : (headFrameStart none (beginRun h)).head.state = .fill := (headFrameStart_state none _).trans fill
  exact ⟨started.1, started.2.1, fun run => absurd (state.symm.trans run) (by simp)⟩

theorem takeStop_legal {h : Head} (legal : HeadLegal h) : HeadLegal (takeStop h).head := by
  have range := inRange_of_legal legal
  unfold takeStop
  split
  case h_1 parked => exact legal
  case h_2 priming => exact park_legal range
  case h_3 fill => exact park_legal range
  case h_4 run =>
    obtain ⟨-, timer, line, -⟩ := (headLegal_iff h).1 legal
    split_ifs with pending owed
    · exact legal
    · exact (headLegal_iff _).2 ⟨range, timer, line, fun _ => ⟨run, owed⟩⟩
    · exact park_legal range

theorem takeStop_bounded {h : Head} (bounded : MissCountsBounded h) : MissCountsBounded (takeStop h).head := by
  unfold takeStop
  split
  case h_1 parked => exact bounded
  case h_2 priming => exact park_bounded bounded.1
  case h_3 fill => exact park_bounded bounded.1
  case h_4 run =>
    split_ifs
    · exact bounded
    · exact bounded
    · exact park_bounded bounded.1

/-- A completed input line does nothing to a head that is not in RUN (R63). -/
theorem takeLine_of_idle (view : View) (n : Nat) {h : Head} (idle : h.state ≠ .run) : takeLine view n h = beginRun h := by
  cases state : h.state <;> simp_all [takeLine]

theorem takeStop_state_ne_run {h : Head} (idle : h.state ≠ .run) : (takeStop h).head.state ≠ .run := by
  unfold takeStop
  split
  case h_1 parked => exact idle
  case h_2 priming => simp [park_state]
  case h_3 fill => simp [park_state]
  case h_4 run => exact absurd run idle

theorem takeFillTimer_state (h : Head) : (takeFillTimer h).head.state = h.state := headFrameStart_state none (beginRun h)

theorem startHead_legal (locked : Bool) {h : Head} (legal : HeadLegal h) (parked : h.state = .parked) :
    HeadLegal (startHead locked h) := by
  have stop := stopPending_of_legal legal (by simp [parked])
  obtain ⟨range, timer, -, -⟩ := (headLegal_iff h).1 legal
  cases locked
  · exact enterFill_legal (h := { h with nextLine := 0 }) range (Nat.zero_le _) stop
  · exact (headLegal_iff _).2 ⟨range, by simpa [startHead, parked] using timer, Nat.zero_le _, by simp [startHead, stop]⟩

theorem startHead_bounded (locked : Bool) {h : Head} (bounded : MissCountsBounded h) : MissCountsBounded (startHead locked h) := by
  cases locked
  · exact enterFill_bounded (h := { h with nextLine := 0 }) bounded.1 bounded.2.1
  · exact ⟨bounded.1, bounded.2.1, by simp [startHead]⟩

end Sys2Proof.Proofs
end

section
/-! Banks in their tables' ranges: what a default, a generation, a write, a copy and a swap store is in range (R20, R21, R43, R45,
R48, R56). -/

namespace Sys2Proof.Proofs

open Sys2Proof.Machine Sys2Proof.Safety Sys2Proof.Laws

/-- Every segment of a bank is in its table's range. -/
def BankLegal (t : Table) (bank : Bank) : Prop := ∀ x ∈ bank, segmentLegal t x

/-! ## Defaults and generation -/

theorem clampHeader_legal (ox oy wx wy : Nat) (edge : EdgePolicy) :
    segmentLegal .mesh (.header (clampHeader ox oy wx wy edge)) := by
  simp only [segmentLegal, clampHeader]
  omega

/-- A step of the grid that a timing lays over `size` pixels lies less than a cell beyond them (R18). -/
theorem gridStep_lt {i size c : Nat} (cell : 0 < c) (inGrid : i < ceilDiv size c + 1) : i * c < size + c := by
  have whole : ceilDiv size c * c ≤ size + c - 1 := Nat.div_mul_le_self _ _
  have below : i * c ≤ ceilDiv size c * c := Nat.mul_le_mul_right c (by omega)
  omega

/-- A mesh cell of a timing in range has at most 128 pixels (R60). -/
theorem meshCell_le {t : Timing} (range : timingInRange t = true) : meshCell t ≤ 128 := by
  simp only [timingInRange, Bool.and_eq_true, decide_eq_true_eq] at range
  exact Nat.pow_le_pow_right Nat.two_pos (show t.k ≤ 7 by omega)

theorem timing_size_le {t : Timing} (range : timingInRange t = true) : t.width ≤ 2048 ∧ t.height ≤ 1280 := by
  simp only [timingInRange, Bool.and_eq_true, decide_eq_true_eq] at range
  omega

theorem identityMesh_legal {t : Timing} (range : timingInRange t = true) (ox oy wx wy : Nat) :
    BankLegal .mesh (identityMesh t ox oy wx wy) := by
  intro x member
  obtain rfl | inRows := List.mem_cons.1 member
  · exact clampHeader_legal _ _ _ _ _
  · obtain ⟨j, inGrid, rfl⟩ := List.mem_map.1 inRows
    intro p inRow
    obtain ⟨i, inGrid', rfl⟩ := List.mem_map.1 inRow
    have right := gridStep_lt (meshCell_pos t) (List.mem_range.1 inGrid')
    have down := gridStep_lt (meshCell_pos t) (List.mem_range.1 inGrid)
    have cell := meshCell_le range
    have size := timing_size_le range
    simp only [clampHeader]
    omega

theorem unityBlend_legal (t : Timing) : BankLegal .blend (unityBlend t) := by
  simp [BankLegal, unityBlend, segmentLegal]

/-- The entries of a bank of `n` segments of 64 values, each a function of its index. -/
theorem values_legal {t : Table} {n top : Nat} {f : Nat → Nat} (bound : ∀ e, e < 64 * n → f e ≤ top)
    (table : ∀ entries, (∀ e ∈ entries, e ≤ top) → segmentLegal t (.values entries)) :
    BankLegal t ((List.range n).map fun s => .values ((List.range 64).map fun i => f (64 * s + i))) := by
  intro x member
  obtain ⟨s, inBank, rfl⟩ := List.mem_map.1 member
  refine table _ fun e inSegment => ?_
  obtain ⟨i, inRange, rfl⟩ := List.mem_map.1 inSegment
  have s' := List.mem_range.1 inBank
  have i' := List.mem_range.1 inRange
  exact bound _ (by omega)

theorem defaultDecode_legal : BankLegal .decode defaultDecode :=
  values_legal (top := 65535) (f := fun e => e * 65535 / 1023) (fun e inTable => by omega) fun _ => id

theorem defaultEncode_legal : BankLegal .encode defaultEncode :=
  values_legal (top := 1023) (f := fun e => (e * 1023 + 2047) / 4095) (fun e inTable => by omega) fun _ => id

theorem defaultTrim_legal : BankLegal .trim defaultTrim := by simp [BankLegal, defaultTrim, segmentLegal]

theorem defaultTiming_inRange (h : HeadId) :
    timingInRange (defaultTiming h) = true ∧ meshFits (defaultTiming h) = true ∧ blendFits (defaultTiming h) = true := by
  cases h <;> decide

theorem defaultBank_legal (h : HeadId) (t : Table) : BankLegal t (defaultBank h t) := by
  cases t with
  | mesh => exact identityMesh_legal (defaultTiming_inRange h).1 _ _ _ _
  | blend => exact unityBlend_legal _
  | decode => exact defaultDecode_legal
  | encode => exact defaultEncode_legal
  | trim => exact defaultTrim_legal

/-! ## Entries as bytes -/

theorem natAt2_le (bs : List Byte) (i : Nat) : natAt2 bs i ≤ 65535 := by
  have high := (byteAt bs i).isLt
  have low := (byteAt bs (i + 1)).isLt
  simp only [natAt2, natAt]
  omega

theorem clampInt_bounds (x : Int) {lo hi : Int} (ordered : lo ≤ hi) : lo ≤ clampInt x lo hi ∧ clampInt x lo hi ≤ hi := by
  simp only [clampInt]
  omega

/-- A stored segment is in its table's range, whatever bytes were written (R20, R21, R43, R45, R48, R56). -/
theorem readSegment_legal (t : Table) (lifts : Bool) (seg n : Nat) (bs : List Byte) :
    segmentLegal t (readSegment t lifts seg n bs) := by
  cases t with
  | mesh =>
    simp only [readSegment]
    split
    · exact clampHeader_legal _ _ _ _ _
    · intro p inRow
      obtain ⟨i, -, rfl⟩ := List.mem_map.1 inRow
      have sx := clampInt_bounds (intAt3 (entryBytes bs 7 i) 0) (lo := -131072) (hi := 131071) (by omega)
      have sy := clampInt_bounds (intAt3 (entryBytes bs 7 i) 3) (lo := -131072) (hi := 131071) (by omega)
      exact ⟨sx.1, sx.2, sy⟩
  | blend =>
    intro q inRow
    obtain ⟨i, -, rfl⟩ := List.mem_map.1 inRow
    refine ⟨min_le_right _ _, fun l lift => ?_⟩
    cases lifts
    · cases lift
    · cases lift
      exact min_le_right _ _
  | decode =>
    intro e inSegment
    obtain ⟨i, -, rfl⟩ := List.mem_map.1 inSegment
    exact natAt2_le _ _
  | encode =>
    intro e inSegment
    obtain ⟨i, -, rfl⟩ := List.mem_map.1 inSegment
    exact min_le_right _ _
  | trim =>
    have offset (i : Nat) := clampInt_bounds (intAt2 bs i) (lo := -4096) (hi := 4095) (by omega)
    exact ⟨⟨min_le_right _ _, min_le_right _ _, min_le_right _ _⟩,
      ⟨(offset 6).1, (offset 6).2, (offset 8).1, (offset 8).2, offset 10⟩, min_le_right _ _, min_le_right _ _, min_le_right _ _⟩

/-! ## Pairs -/

/-- Both banks of a pair are in their table's range. -/
def PairLegal (t : Table) (p : Pair) : Prop := BankLegal t p.live ∧ BankLegal t p.shadow

/-- Every bank of every pair of a head is in its table's range. -/
def PairsLegal (ps : PerTable Pair) : Prop := ∀ t, PairLegal t (ps.get t)

theorem storeSegment_legal {t : Table} {p : Pair} (legal : PairLegal t p) (seg : Nat) {data : Segment}
    (fits : segmentLegal t data) : PairLegal t (storeSegment seg data p) :=
  ⟨legal.1, fun x member => (List.mem_or_eq_of_mem_set member).elim (legal.2 x) fun same => same ▸ fits⟩

theorem copySegment_legal {t : Table} {p : Pair} (legal : PairLegal t p) (seg : Nat) : PairLegal t (copySegment seg p) := by
  unfold copySegment
  split
  · rename_i data stored
    exact storeSegment_legal legal seg (legal.1 data (List.mem_of_getElem? stored))
  · exact legal

theorem freshPair_legal {t : Table} {bank : Bank} (legal : BankLegal t bank) (segments : Nat) :
    PairLegal t (freshPair bank segments) := ⟨legal, legal⟩

theorem swapPair_legal {t : Table} {p : Pair} (legal : PairLegal t p) : PairLegal t (swapPair p) := ⟨legal.2, legal.1⟩

theorem pairsLegal_set {ps : PerTable Pair} (legal : PairsLegal ps) {t : Table} {p : Pair} (fits : PairLegal t p) :
    PairsLegal (ps.set t p) := by
  intro u
  rw [perTable_get_set]
  split
  · rename_i same
    exact same ▸ fits
  · exact legal u

theorem defaultPairs_legal (h : HeadId) : PairsLegal (defaultPairs h) := by
  intro t
  rw [defaultPairs, perTable_get_ofFn]
  exact freshPair_legal (defaultBank_legal h t) _

theorem generatedPairs_legal {h : Head} (p : Packet) (range : timingInRange h.timing = true) (legal : PairsLegal h.pairs) :
    PairsLegal (generatedPairs p h) := by
  intro t
  cases t with
  | mesh => exact freshPair_legal (identityMesh_legal range _ _ _ _) _
  | blend => exact freshPair_legal (unityBlend_legal _) _
  | decode => exact legal .decode
  | encode => exact legal .encode
  | trim => exact legal .trim

theorem swapHead_legal {h : Head} (c : ArmedCommit) (legal : PairsLegal h.pairs) : PairsLegal (swapHead c h).pairs := by
  intro t
  rw [swapHead_pair]
  split
  · exact swapPair_legal (legal t)
  · exact legal t

end Sys2Proof.Proofs
end

section
/-! The heads and their ports: what a command can do to one of them, said once (chapters 4 and 5), and the operations of which
commands are made. -/

namespace Sys2Proof.Proofs

open Sys2Proof.Machine Sys2Proof.Safety Sys2Proof.Laws

/-- What the events of one head work on: the head, and what its port has emitted. -/
structure HeadSide where
  head : Head
  port : List PortItem

/-- One head and its port. -/
def headSide (k : HeadId) (s : State) : HeadSide := { head := s.heads.get k, port := s.outputs.ports.get k }

/-- A head and its port after an event of the head. -/
def HeadSide.run (f : Head → HeadRun) (x : HeadSide) : HeadSide := { head := (f x.head).head, port := x.port ++ (f x.head).emitted }

/-- A head changed without a word from its port. -/
def HeadSide.withHead (x : HeadSide) (h : Head) : HeadSide := { x with head := h }

/-- What a head and its port become at an event depends on what the event does to this head alone. -/
theorem HeadSide.run_congr {x : HeadSide} {f g : Head → HeadRun} (same : f x.head = g x.head) : x.run f = x.run g := by
  simp [HeadSide.run, same]

theorem HeadSide.run_beginRun (x : HeadSide) : x.run beginRun = x := by simp [HeadSide.run, beginRun]

/-- Everything a command can do to head `k`, frame starts and absence expiries apart, in one step of its own. -/
inductive HeadStep (k : HeadId) : HeadSide → HeadSide → Prop
  /-- An input line is completed (R63). -/
  | line (x : HeadSide) (view : View) (n : Nat) : HeadStep k x (x.run (takeLine view n))
  /-- The fill timer runs out (R73). -/
  | fillTimer (x : HeadSide) (fill : x.head.state = .fill) : HeadStep k x (x.run takeFillTimer)
  /-- STOP (R79). -/
  | stop (x : HeadSide) : HeadStep k x (x.run takeStop)
  /-- An untagged commit swaps at its arming (R101). -/
  | swap (x : HeadSide) : HeadStep k x (x.run fun h => swapWhen dueAtParking (beginRun h))
  /-- START (R78). -/
  | start (x : HeadSide) (locked : Bool) (parked : x.head.state = .parked) : HeadStep k x (x.withHead (startHead locked x.head))
  /-- A commit is armed or withdrawn (R98, R104). -/
  | arm (x : HeadSide) (armed : Option ArmedCommit) : HeadStep k x (x.withHead { x.head with armed := armed })
  /-- SET-TIMING (R76, R77). -/
  | retime (x : HeadSide) (timing : Timing) (parked : x.head.state = .parked) (range : timingInRange timing = true)
      (mesh : meshFits timing = true) (blend : blendFits timing = true) :
    HeadStep k x (x.withHead { x.head with timing := timing, missRunning := 0, missLatched := 0, nextLine := 0 })
  /-- Its banks are written, copied, generated or set to their defaults, all in range (R87, R93, R77, R180). -/
  | store (x : HeadSide) (pairs : PerTable Pair) (legal : HeadLegal x.head → PairsLegal x.head.pairs → PairsLegal pairs) :
    HeadStep k x (x.withHead { x.head with pairs := pairs })
  /-- Its counts are cleared (R160). -/
  | clearCounts (x : HeadSide) : HeadStep k x (x.withHead { x.head with missTotal := 0, shortFrames := 0 })
  /-- Its event flags are cleared (R191). -/
  | clearFlags (x : HeadSide) :
    HeadStep k x (x.withHead { x.head with parkedFlag := false, committedFlag := false, fillFlag := false })
  /-- RESET-UNIT (R184). -/
  | resetUnit (x : HeadSide) : HeadStep k x (x.withHead (resetUnitHead k x.head))

/-- A run of such steps. -/
abbrev HeadSteps (k : HeadId) : HeadSide → HeadSide → Prop := Relation.ReflTransGen (HeadStep k)

/-- What every step of a head keeps, a run of steps keeps. -/
theorem HeadSteps.keeps {k : HeadId} {Inv : HeadSide → Prop} (step : ∀ x y, HeadStep k x y → Inv x → Inv y) {x y : HeadSide}
    (steps : HeadSteps k x y) (inv : Inv x) : Inv y := by
  induction steps with
  | refl => exact inv
  | tail _ last ih => exact step _ _ last ih

/-- Everything a command can do to the heads and their ports, with what it does to the lock they follow. -/
inductive HeadsChange (s t : State) : Prop
  /-- No event of a frame: a lock that stands still stands. -/
  | steps (lock : s.receiver.state = .locked ∨ s.receiver.state = .coasting →
        t.receiver.state = .locked ∨ t.receiver.state = .coasting)
      (heads : ∀ k, HeadSteps k (headSide k s) (headSide k t))
  /-- A frame start or regain, after which the receiver is LOCKED (R4, R17). -/
  | frameStart (view : View) (regain : Bool) (frame : Byte) (locked : t.receiver.state = .locked)
      (heads : ∀ k, headSide k t = (headSide k s).run (takeFrameStart view regain frame))
  /-- An absence expiry (R6, R17). -/
  | absence (view : View) (heads : ∀ k, headSide k t = (headSide k s).run (takeAbsence view))
  /-- A power-on reset (R183). -/
  | powerOn (heads : ∀ k, headSide k t = (headSide k s).withHead (resetHead k))

/-- The steps of every head and port. -/
def HeadsStep (s t : State) : Prop := ∀ k, HeadSteps k (headSide k s) (headSide k t)

theorem headsStep_of_eq {s t : State} (same : ∀ k, headSide k t = headSide k s) : HeadsStep s t :=
  fun k => same k ▸ .refl

theorem HeadsStep.trans {s t u : State} (first : HeadsStep s t) (second : HeadsStep t u) : HeadsStep s u :=
  fun k => (first k).trans (second k)

/-! ## Operations on the heads -/

@[simp] theorem headSide_answerPacket (k : HeadId) (p : Packet) (o : OutcomeCode) (body : List Byte) (s : State) :
    headSide k (answerPacket p o body s) = headSide k s := by
  rw [answerPacket_eq]
  rfl

@[simp] theorem headSide_refuseTake (k : HeadId) (o : OutcomeCode) (p : Packet) (s : State) :
    headSide k (refuseTake o p s) = headSide k s := by
  rw [refuseTake_eq]
  rfl

@[simp] theorem headSide_refuseForm (k : HeadId) (p : Packet) (s : State) : headSide k (refuseForm p s) = headSide k s :=
  headSide_refuseTake _ _ _ _

@[simp] theorem headSide_resumeCopy (k : HeadId) (s : State) : headSide k (resumeCopy s) = headSide k s := by
  rw [resumeCopy_eq]
  rfl

@[simp] theorem headSide_queuePacket (k : HeadId) (p : Packet) (s : State) : headSide k (queuePacket p s) = headSide k s := by
  rw [queuePacket_eq]
  rfl

@[simp] theorem headSide_removeJob (k h : HeadId) (s : State) (t : Table) : headSide k (removeJob h s t) = headSide k s := by
  rw [removeJob_eq]
  rfl

@[simp] theorem headSide_answerJob (k : HeadId) (j : SyncJob) (o : OutcomeCode) (s : State) :
    headSide k (answerJob j o s) = headSide k s := by
  rw [answerJob, generate_eq]
  rfl

@[simp] theorem headSide_answerSwaps (k : HeadId) (order : List HeadId) (runs : PerHead HeadRun) (s : State) :
    headSide k (answerSwaps order runs s) = headSide k s := by
  rw [answerSwaps_eq]
  rfl

/-- A fold of operations that leave a head and its port as they are leaves them as they are. -/
theorem headSide_foldl {α : Type} (k : HeadId) (l : List α) (f : State → α → State)
    (kept : ∀ s a, headSide k (f s a) = headSide k s) (s : State) : headSide k (l.foldl f s) = headSide k s := by
  induction l generalizing s with
  | nil => rfl
  | cons a l ih => rw [List.foldl_cons, ih, kept]

/-- A head and its port after the runs of an event. -/
theorem headSide_applyRuns (k : HeadId) (f : Head → HeadRun) {runs : PerHead HeadRun} {s : State}
    (run : runs.get k = f (s.heads.get k)) : headSide k (applyRuns runs s) = (headSide k s).run f := by
  simp [headSide, HeadSide.run, applyRuns, run]

theorem headSide_handToHeads (k : HeadId) (f : Head → HeadRun) (s : State) :
    headSide k (handToHeads f s) = (headSide k s).run f := by
  rw [handToHeads_eq]
  simp [headSide, HeadSide.run]

theorem headSide_runHeads (k : HeadId) (f : HeadId → Head → HeadRun) (s : State) :
    headSide k (runHeads f s) = (headSide k s).run (f k) := by
  rw [runHeads_eq]
  simp [headSide, HeadSide.run]

/-- A state whose heads alone are set to other ones. -/
theorem headSide_of_heads (k : HeadId) {s t : State} (ports : t.outputs.ports = s.outputs.ports) :
    headSide k t = (headSide k s).withHead (t.heads.get k) := by simp [headSide, HeadSide.withHead, ports]

/-- A change of the heads on their own account, head by head. -/
theorem headsStep_of_heads {s t : State} (ports : t.outputs.ports = s.outputs.ports)
    (change : ∀ k, t.heads.get k = s.heads.get k ∨ HeadStep k (headSide k s) ((headSide k s).withHead (t.heads.get k))) :
    HeadsStep s t := by
  intro k
  rw [headSide_of_heads k ports]
  obtain same | step := change k
  · rw [same]
    exact .refl
  · exact .single step

/-- A change of one head on its own account. -/
theorem headsStep_of_set {s t : State} {h : HeadId} {head : Head} (ports : t.outputs.ports = s.outputs.ports)
    (heads : t.heads = s.heads.set h head) (change : HeadStep h (headSide h s) ((headSide h s).withHead head)) : HeadsStep s t := by
  refine headsStep_of_heads ports fun k => ?_
  rw [heads, perHead_get_set]
  split
  · rename_i same
    subst same
    exact .inr change
  · exact .inl rfl

/-- A change of each head by a function of the head. -/
theorem headsStep_of_mapHeads {s t : State} {f : HeadId → Head → Head} (ports : t.outputs.ports = s.outputs.ports)
    (heads : t.heads = s.heads.mapHeads f)
    (change : ∀ k, f k (s.heads.get k) = s.heads.get k ∨
      HeadStep k (headSide k s) ((headSide k s).withHead (f k (s.heads.get k)))) : HeadsStep s t := by
  refine headsStep_of_heads ports fun k => ?_
  rw [heads, perHead_get_mapHeads]
  exact change k

/-- An event of some of the heads, each of which does nothing at it or makes a step. -/
theorem headsStep_of_runs {s t : State} {f : HeadId → Head → HeadRun} (sides : ∀ k, headSide k t = (headSide k s).run (f k))
    (change : ∀ k, f k (s.heads.get k) = beginRun (s.heads.get k) ∨ ∃ g, f k (s.heads.get k) = g (s.heads.get k) ∧
      HeadStep k (headSide k s) ((headSide k s).run g)) : HeadsStep s t := by
  intro k
  rw [sides]
  obtain nothing | ⟨g, same, step⟩ := change k
  · rw [HeadSide.run_congr nothing, HeadSide.run_beginRun]
  · rw [HeadSide.run_congr same]
    exact .single step

theorem HeadsStep.answered {s t : State} (step : HeadsStep s t) (p : Packet) (o : OutcomeCode) (body : List Byte) :
    HeadsStep s (answerPacket p o body t) := step.trans (headsStep_of_eq fun k => headSide_answerPacket k p o body t)

theorem HeadsStep.resumed {s t : State} (step : HeadsStep s t) : HeadsStep s (resumeCopy t) :=
  step.trans (headsStep_of_eq fun k => headSide_resumeCopy k t)

theorem headsStep_refl (s : State) : HeadsStep s s := fun _ => .refl

theorem withdraw_headsStep (h : HeadId) (s : State) : HeadsStep s (withdraw h s) := by
  rw [withdraw_eq]
  exact headsStep_of_set rfl rfl (.arm (headSide h s) none)

/-- A fold of operations that step the heads steps the heads. -/
theorem foldl_headsStep {α : Type} (l : List α) (f : State → α → State) (step : ∀ s a, HeadsStep s (f s a)) (s : State) :
    HeadsStep s (l.foldl f s) := by
  induction l generalizing s with
  | nil => exact headsStep_refl s
  | cons a l ih => exact (step s a).trans (ih _)

theorem removeJob_headsStep (h : HeadId) (s : State) (t : Table) : HeadsStep s (removeJob h s t) :=
  headsStep_of_eq fun k => headSide_removeJob k h s t

theorem cancelHead_headsStep (ts : TableSet) (s : State) (h : HeadId) : HeadsStep s (cancelHead ts s h) := by
  refine HeadsStep.trans ?_ (foldl_headsStep _ _ (removeJob_headsStep h) _)
  split
  · exact withdraw_headsStep h s
  · exact headsStep_refl s

end Sys2Proof.Proofs
end

section
/-! The heads and their ports at every take and completion (chapters 4, 5 and 7; R77, R79, R87, R93, R101, R180). -/

namespace Sys2Proof.Proofs

open Sys2Proof.Machine Sys2Proof.Safety Sys2Proof.Laws

/-! ## Takes and completions -/

/-- A head with the timing that an accepted SET-TIMING gives it (R77). -/
def retimedHead (p : Packet) (h : Head) : Head :=
  { h with timing := readTiming p.body, missRunning := 0, missLatched := 0, nextLine := 0 }

/-- A state with its head `h` retimed and the loader busy with generation (R77). -/
def retimed (p : Packet) (h : HeadId) (s : State) : State :=
  { s with heads := s.heads.set h (retimedHead p (s.heads.get h)), loader := { s.loader with state := .generating p } }

theorem beginGeneration_eq (p : Packet) (h : HeadId) (s : State) :
    beginGeneration p h s = resumeCopy (removeJob h (removeJob h (withdraw h (retimed p h s)) .mesh) .blend) := rfl

/-- SET-TIMING retimes its head, whose commit it then withdraws (R77). -/
theorem beginGeneration_headsStep {p : Packet} {h : HeadId} {s : State} (parked : (s.heads.get h).state = .parked)
    (range : timingInRange (readTiming p.body) = true) (mesh : meshFits (readTiming p.body) = true)
    (blend : blendFits (readTiming p.body) = true) : HeadsStep s (beginGeneration p h s) := by
  have timed : HeadsStep s (retimed p h s) :=
    headsStep_of_set rfl rfl (.retime (headSide h s) (readTiming p.body) parked range mesh blend)
  have withdrawn := timed.trans (withdraw_headsStep h _)
  rw [beginGeneration_eq]
  exact ((withdrawn.trans (removeJob_headsStep h _ .mesh)).trans (removeJob_headsStep h _ .blend)).resumed

/-- STOP's part of each head (R79). -/
def stopRuns (p : Packet) (s : State) : PerHead HeadRun :=
  .ofFn fun h => if (packetMask p).get h then takeStop (s.heads.get h) else beginRun (s.heads.get h)

theorem stopRuns_get (p : Packet) (s : State) (k : HeadId) :
    (stopRuns p s).get k = if (packetMask p).get k then takeStop (s.heads.get k) else beginRun (s.heads.get k) :=
  perHead_get_ofFn _ k

/-- What a verb's rule carries out steps the heads. -/
theorem ruleOf_headsStep {v : Verb} {p : Packet} {s s' : State} (carry : ruleOf v p s = .carryOut s') : HeadsStep s s' := by
  cases v with
  | discover =>
    simp only [ruleOf, ruleDiscover, doneWith] at carry
    split_ifs at carry <;> cases carry <;> exact headsStep_of_eq fun k => headSide_answerPacket k _ _ _ _
  | setAccept =>
    simp only [ruleOf, ruleSetAccept, doneWith] at carry
    split_ifs at carry <;> cases carry <;> exact headsStep_of_eq fun k => headSide_answerPacket k _ _ _ _
  | setLink =>
    simp only [ruleOf, ruleSetLink, doneWith] at carry
    cases carry
    exact headsStep_of_eq fun k => headSide_answerPacket k _ _ _ _
  | setIntake =>
    simp only [ruleOf, ruleSetIntake, doneWith] at carry
    split at carry <;> cases carry
    exact headsStep_of_eq fun k => headSide_answerPacket k _ _ _ _
  | setGuard =>
    simp only [ruleOf, ruleSetGuard, doneWith] at carry
    split at carry <;> cases carry
    exact headsStep_of_eq fun k => headSide_answerPacket k _ _ _ _
  | setReturn =>
    simp only [ruleOf, ruleSetReturn, doneWith] at carry
    split at carry <;> cases carry
    exact headsStep_of_eq fun k => headSide_answerPacket k _ _ _ _
  | clearFault =>
    simp only [ruleOf, ruleClearFault, doneWith] at carry
    split at carry <;> cases carry
    refine HeadsStep.answered ?_ _ _ _
    by_cases counts : (byteAt p.body 0).getLsbD 3 = true
    · exact headsStep_of_mapHeads rfl (if_pos counts) fun k => .inr (.clearCounts (headSide k s))
    · exact headsStep_of_heads rfl fun k => .inl (congrArg (PerHead.get · k) (if_neg counts))
  | readStatus =>
    simp only [ruleOf, ruleReadStatus, doneWith] at carry
    split at carry <;> cases carry
    · refine HeadsStep.answered ?_ _ _ _
      exact headsStep_of_mapHeads (f := fun _ h => { h with parkedFlag := false, committedFlag := false, fillFlag := false })
        rfl rfl fun k => .inr (.clearFlags (headSide k s))
    · exact headsStep_refl s
  | resetUnit =>
    cases carry
    exact headsStep_of_mapHeads rfl rfl fun k => .inr (.resetUnit (headSide k s))
  | setTiming =>
    simp only [ruleOf, ruleSetTiming] at carry
    split at carry
    · split_ifs at carry with notParked guard range mesh blend
      cases carry
      exact beginGeneration_headsStep (not_not.1 notParked) (by simpa using range) (by simpa using mesh) (by simpa using blend)
    · cases carry
  | start =>
    simp only [ruleOf, ruleStart, doneWith] at carry
    split at carry
    · cases carry
    · rename_i allParked
      cases carry
      refine HeadsStep.answered ?_ _ _ _
      refine headsStep_of_mapHeads (f := fun h head =>
        if (packetMask p).get h then startHead (s.receiver.state == .locked) head else head) rfl rfl fun k => ?_
      split
      · rename_i masked
        have parked : (s.heads.get k).state = .parked := by
          by_contra other
          exact allParked (List.any_eq_true.2 ⟨k, (mem_packetHeads p k).2 masked, by simpa using other⟩)
        exact .inr (.start (headSide k s) _ parked)
      · exact .inl rfl
  | stop =>
    simp only [ruleOf, ruleStop, Verdict.carryOut.injEq] at carry
    subst carry
    refine headsStep_of_runs (f := fun k head => if (packetMask p).get k then takeStop head else beginRun head)
      (fun k => ?_) fun k => ?_
    · refine Eq.trans ?_ (headSide_applyRuns k _ (stopRuns_get p s k))
      split <;> simp only [headSide_answerSwaps, headSide_answerPacket] <;> rfl
    · split
      · exact .inr ⟨takeStop, rfl, .stop (headSide k s)⟩
      · exact .inl rfl
  | writeTable =>
    simp only [ruleOf, ruleWriteTable] at carry
    split at carry
    · cases carry
    · split_ifs at carry
      cases carry
      exact headsStep_of_eq fun _ => rfl
  | readTable =>
    simp only [ruleOf, ruleReadTable, doneWith] at carry
    split at carry
    · split at carry
      · cases carry
      · split_ifs at carry
        cases carry
        exact headsStep_of_eq fun k => headSide_answerPacket k _ _ _ _
    · cases carry
  | sync =>
    simp only [ruleOf, ruleSync, doneWith] at carry
    split_ifs at carry
    cases carry
    exact headsStep_of_eq fun k => (headSide_answerPacket k _ _ _ _).trans (headSide_resumeCopy k _)
  | commit =>
    simp only [ruleOf, ruleCommit] at carry
    split_ifs at carry
    cases carry
    have armed : HeadsStep s { s with heads := armHeads p s.heads } := by
      refine headsStep_of_mapHeads (f := fun h head =>
        if (packetMask p).get h then { head with armed := some (commitOf p) } else head) rfl rfl fun k => ?_
      split
      · exact .inr (.arm (headSide k s) _)
      · exact .inl rfl
    refine (armed.answered p .armed (armedBody p s)).trans ?_
    refine headsStep_of_runs (fun k => headSide_runHeads k _ _) fun k => ?_
    split
    · exact .inr ⟨_, rfl, .swap (headSide k _)⟩
    · exact .inl rfl
  | cancel =>
    simp only [ruleOf, ruleCancel] at carry
    have cancelled := (foldl_headsStep (packetHeads p) _ (cancelHead_headsStep (tableSetOf (byteAt p.body 0))) s).resumed
    split_ifs at carry
    all_goals
      cases carry
      exact cancelled.answered _ _ _

theorem takeVerb_headsStep (v : Verb) (s : State) : HeadsStep s (takeVerb v (ruleOf v) s) := by
  refine takeVerb_induction (headsStep_refl s) ?_ ?_ fun p rest s' carry => ruleOf_headsStep (s := afterTake rest s) carry
  · exact fun p rest => headsStep_of_eq fun k => headSide_refuseForm k p (afterTake rest s)
  · exact fun o p rest => headsStep_of_eq fun k => headSide_refuseTake k o p (afterTake rest s)

theorem takeUnknown_headsStep (s : State) : HeadsStep s (takeUnknown s) :=
  takeUnknown_induction (headsStep_refl s) fun p rest => headsStep_of_eq fun k => headSide_refuseForm k p (afterTake rest s)

theorem fillTimerExpiry_headsStep (h : HeadId) (s : State) : HeadsStep s (fillTimerExpiry h s) := by
  unfold fillTimerExpiry
  split
  · rename_i due
    refine headsStep_of_runs (fun k => headSide_runHeads k _ _) fun k => ?_
    split
    · rename_i same
      subst same
      exact .inr ⟨takeFillTimer, rfl, .fillTimer (headSide k s) due.1⟩
    · exact .inl rfl
  · exact headsStep_refl s

theorem writeCompletion_headsStep (s : State) : HeadsStep s (writeCompletion s) := by
  unfold writeCompletion
  split
  · dsimp only
    split
    · rename_i p _ _ t _
      refine HeadsStep.answered ?_ _ _ _
      refine headsStep_of_heads rfl fun k => ?_
      rw [storeOnHeads, perHead_get_mapHeads]
      split
      · exact .inr (.store (headSide k s) _ fun _ legal =>
          pairsLegal_set legal (storeSegment_legal (legal t) _ (readSegment_legal t _ _ _ _)))
      · exact .inl rfl
    · exact headsStep_of_eq fun _ => rfl
  · exact headsStep_refl s

theorem generationCompletion_headsStep (s : State) : HeadsStep s (generationCompletion s) := by
  unfold generationCompletion
  split
  · split
    · rename_i p _ _ h _
      refine HeadsStep.answered ?_ _ _ _
      exact headsStep_of_set rfl rfl
        (.store (headSide h s) (generatedPairs p (s.heads.get h)) fun legal => generatedPairs_legal p (inRange_of_legal legal).1)
    · exact headsStep_of_eq fun _ => rfl
  · exact headsStep_refl s

theorem changePair_headsStep (h : HeadId) (t : Table) {f : Pair → Pair} (s : State)
    (legal : ∀ p, PairLegal t p → PairLegal t (f p)) : HeadsStep s (changePair h t f s) :=
  headsStep_of_set rfl rfl (.store (headSide h s) _ fun _ pairs => pairsLegal_set pairs (legal _ (pairs t)))

theorem segmentCopyCompletion_headsStep (s : State) : HeadsStep s (segmentCopyCompletion s) := by
  unfold segmentCopyCompletion
  split
  · rename_i c _
    have copied := changePair_headsStep c.head c.table s fun p legal => copySegment_legal legal c.segment
    refine copied.trans (headsStep_of_eq fun k => ?_)
    dsimp only
    split
    · exact headSide_foldl k _ _ (fun s j => headSide_answerJob k j .done s) _
    · rfl
  · exact headsStep_refl s

theorem finishInitialization_headsStep (s : State) : HeadsStep s (finishInitialization s) := by
  have defaults : HeadsStep s { s with
      heads := s.heads.mapHeads fun h head => { head with pairs := defaultPairs h }
      loader := { s.loader with state := .idle }
      control := { s.control with state := .ready, startUp := true } } :=
    headsStep_of_mapHeads (f := fun h head => { head with pairs := defaultPairs h }) rfl rfl
      fun k => .inr (.store (headSide k s) _ fun _ _ => defaultPairs_legal k)
  unfold finishInitialization
  split
  · exact defaults.answered _ _ _
  · exact defaults

theorem initializationCompletion_headsStep (s : State) : HeadsStep s (initializationCompletion s) := by
  unfold initializationCompletion
  split
  · refine (finishInitialization_headsStep s).trans ?_
    obtain noTake | unknown | ⟨v, taken⟩ := takeOldest_cases (finishInitialization s)
    · rw [noTake]
      exact headsStep_refl _
    · rw [unknown]
      exact takeUnknown_headsStep _
    · rw [taken]
      exact takeVerb_headsStep v _
  · exact headsStep_refl s

end Sys2Proof.Proofs
end

section
/-! The heads and their ports at every command, and the invariants of legal heads that follow (R35, R36, R60, R63, R66, R67, R73,
R79, R80). -/

namespace Sys2Proof.Proofs

open Sys2Proof.Machine Sys2Proof.Safety Sys2Proof.Laws

/-! ## Every command -/

/-- Heads that step under a receiver in the same state. -/
theorem headsChange_of_sameState {s t : State} (state : t.receiver.state = s.receiver.state) (heads : HeadsStep s t) :
    HeadsChange s t := .steps (by rw [state]; exact id) heads

theorem headsChange_refl (s : State) : HeadsChange s s := headsChange_of_sameState rfl (headsStep_refl s)

/-- Heads that step at an event that changes nothing of the receiver but its timeout. -/
theorem headsChange_of_sameButTimeout {s t : State} (link : SameButTimeout (linkSide s) (linkSide t)) (heads : HeadsStep s t) :
    HeadsChange s t := by
  refine headsChange_of_sameState ?_ heads
  obtain same | ⟨ms, -, -, changed⟩ := link
  · exact congrArg (fun x => x.receiver.state) same
  · exact congrArg (fun x => x.receiver.state) changed

theorem headsChange_of_linkSide {s t : State} (link : linkSide t = linkSide s) (heads : HeadsStep s t) : HeadsChange s t :=
  headsChange_of_sameButTimeout (.inl link) heads

/-- Heads that stay as they are at an event of the link that keeps a lock. -/
theorem headsChange_of_sameHeads {s t : State} (heads : ∀ k, headSide k t = headSide k s)
    (lock : s.receiver.state = .locked ∨ s.receiver.state = .coasting →
      t.receiver.state = .locked ∨ t.receiver.state = .coasting) : HeadsChange s t := .steps lock (headsStep_of_eq heads)

theorem whileReleased_headsChange {f : State → State} {s : State} (change : HeadsChange s (f s)) :
    HeadsChange s (whileReleased f s) := whileReleased_induction (headsChange_refl s) change

theorem carrierUp_headSide (k : HeadId) (s : State) : headSide k (carrierUp s) = headSide k s := by
  unfold carrierUp
  split <;> rfl

theorem carrierUp_lock {s : State} (lock : s.receiver.state = .locked ∨ s.receiver.state = .coasting) :
    (carrierUp s).receiver.state = .locked ∨ (carrierUp s).receiver.state = .coasting := by
  unfold carrierUp
  split
  · exact lock
  · obtain state | state := lock <;> simp [repeatThru, state]

theorem carrierUp_headsChange (s : State) : HeadsChange s (carrierUp s) :=
  headsChange_of_sameHeads (fun k => carrierUp_headSide k s) carrierUp_lock

theorem carrierLoss_headsChange (broken : Option ItemPart) (s : State) : HeadsChange s (carrierLoss broken s) := by
  unfold carrierLoss
  split
  · refine headsChange_of_sameHeads (fun _ => rfl) fun lock => ?_
    obtain state | state := lock <;> simp [state, startCoasting]
  · exact headsChange_refl s

theorem releaseReset_headsChange (carrier : Bool) (s : State) : HeadsChange s (releaseReset carrier s) := by
  unfold releaseReset
  split
  · cases carrier with
    | false => exact headsChange_of_sameHeads (fun _ => rfl) id
    | true =>
      show HeadsChange s (carrierUp _)
      exact headsChange_of_sameHeads (fun k => carrierUp_headSide k _) fun lock => carrierUp_lock lock
  · exact headsChange_refl s

theorem malformedMarker_headsChange (bytes : List Byte) (s : State) : HeadsChange s (malformedMarker bytes s) := by
  unfold malformedMarker
  split
  · exact headsChange_refl s
  · exact headsChange_of_sameHeads (fun _ => rfl) fun _ => .inr rfl
  · exact headsChange_of_sameHeads (fun _ => rfl) id
  · exact headsChange_of_sameHeads (fun _ => rfl) id

theorem frameStart_headsChange (frame : Byte) (width height : Half) (s : State) :
    HeadsChange s (frameStart frame width height s) := by
  unfold frameStart
  split
  · exact headsChange_refl s
  · refine .frameStart (viewOf s) (s.receiver.state == .coasting) frame ?_ fun k => headSide_handToHeads k _ _
    rw [handToHeads_eq]
    rfl

theorem lineCompletion_headsChange (pixels : List Pixel) (s : State) : HeadsChange s (lineCompletion pixels s) := by
  unfold lineCompletion
  split
  · exact headsChange_refl s
  · dsimp only
    split
    · refine headsChange_of_sameState ?_ (headsStep_of_runs (fun k => headSide_handToHeads k _ _) fun k =>
        .inr ⟨_, rfl, .line (headSide k s) _ _⟩)
      rw [handToHeads_eq]
      rfl
    · exact headsChange_of_sameHeads (fun _ => rfl) id

theorem absenceExpiry_headsChange (s : State) : HeadsChange s (absenceExpiry s) := by
  unfold absenceExpiry
  split
  · exact .absence (viewOf s) fun k => headSide_handToHeads k _ _
  · exact headsChange_refl s

theorem powerOn_headsChange (broken : Option ItemPart) (s : State) : HeadsChange s (powerOn broken s) := by
  refine .powerOn fun k => ?_
  have ports : (powerOn broken s).outputs.ports = s.outputs.ports := by
    simp only [powerOn]
    split <;> rfl
  rw [headSide_of_heads k ports]
  exact congrArg _ (perHead_get_ofFn resetHead k)

@[simp] theorem headSide_checkPacket (k : HeadId) (bytes : List Byte) (s : State) :
    headSide k (checkPacket bytes s) = headSide k s := by
  unfold checkPacket
  split
  · dsimp only
    split
    · exact headSide_queuePacket k _ _
    · rfl
  · rfl

theorem packetArrival_headsChange (bytes : List Byte) (s : State) : HeadsChange s (packetArrival bytes s) := by
  unfold packetArrival
  split
  · exact headsChange_refl s
  · exact headsChange_of_sameHeads (fun _ => rfl) id
  · exact headsChange_of_sameHeads (fun _ => rfl) id
  · refine headsChange_of_sameState ?_ (headsStep_of_eq fun k => headSide_checkPacket k bytes _)
    exact congrArg (fun x => x.receiver.state) (linkSide_checkPacket bytes _)

theorem completeSend_headSide (k : HeadId) (held arrived : Bool) (s : State) :
    headSide k (completeSend held arrived s) = headSide k s := by
  unfold completeSend
  split
  · cases arrived <;> rfl
  · rfl

theorem exec_takeOf_headsChange {v : Verb} {s t : State} (run : exec (takeOf v) s = .next t) : HeadsChange s t := by
  rw [exec_takeOf] at run
  cases run
  exact whileReleased_headsChange (headsChange_of_sameButTimeout (takeVerb_linkSide v s) (takeVerb_headsStep v s))

/-- Every command changes the heads and their ports in one of the ways of `HeadsChange`. -/
theorem exec_headsChange {c : Instr} {s t : State} (run : exec c s = .next t) : HeadsChange s t := by
  cases c with
  | powerOnReset broken => cases run; exact powerOn_headsChange broken s
  | resetInputRelease carrier => cases run; exact releaseReset_headsChange carrier s
  | initializationCompletion =>
    cases run
    exact whileReleased_headsChange
      (headsChange_of_sameButTimeout (initializationCompletion_linkSide s) (initializationCompletion_headsStep s))
  | carrierUp => cases run; exact whileReleased_headsChange (carrierUp_headsChange s)
  | carrierLoss broken => cases run; exact whileReleased_headsChange (carrierLoss_headsChange broken s)
  | frameStart f w h => cases run; exact whileReleased_headsChange (frameStart_headsChange f w h s)
  | malformedMarker bytes => cases run; exact whileReleased_headsChange (malformedMarker_headsChange bytes s)
  | lineCompletion pixels => cases run; exact whileReleased_headsChange (lineCompletion_headsChange pixels s)
  | packetArrival bytes => cases run; exact whileReleased_headsChange (packetArrival_headsChange bytes s)
  | absenceExpiry => cases run; exact whileReleased_headsChange (absenceExpiry_headsChange s)
  | fillTimerExpiry h =>
    cases run
    exact whileReleased_headsChange (headsChange_of_linkSide (linkSide_fillTimerExpiry h s) (fillTimerExpiry_headsStep h s))
  | writeCompletion =>
    cases run
    exact whileReleased_headsChange (headsChange_of_linkSide (linkSide_writeCompletion s) (writeCompletion_headsStep s))
  | generationCompletion =>
    cases run
    exact whileReleased_headsChange (headsChange_of_linkSide (linkSide_generationCompletion s) (generationCompletion_headsStep s))
  | segmentCopyCompletion =>
    cases run
    exact whileReleased_headsChange
      (headsChange_of_linkSide (linkSide_segmentCopyCompletion s) (segmentCopyCompletion_headsStep s))
  | sendStart => cases run; exact whileReleased_headsChange (headsChange_of_sameHeads (fun _ => rfl) id)
  | sendCompletion held arrived =>
    cases run
    exact whileReleased_headsChange (headsChange_of_linkSide (linkSide_completeSend held arrived s)
      (headsStep_of_eq fun k => completeSend_headSide k held arrived s))
  | relayArrival a => cases run; exact whileReleased_headsChange (headsChange_of_sameHeads (fun _ => rfl) id)
  | holdBackRelease asserted => cases run; exact headsChange_of_sameHeads (fun _ => rfl) id
  | unknownVerb =>
    cases run
    exact whileReleased_headsChange (headsChange_of_linkSide (takeUnknown_linkSide s) (takeUnknown_headsStep s))
  | discover => exact exec_takeOf_headsChange (v := .discover) run
  | setAccept => exact exec_takeOf_headsChange (v := .setAccept) run
  | setLink => exact exec_takeOf_headsChange (v := .setLink) run
  | setIntake => exact exec_takeOf_headsChange (v := .setIntake) run
  | setGuard => exact exec_takeOf_headsChange (v := .setGuard) run
  | setReturn => exact exec_takeOf_headsChange (v := .setReturn) run
  | clearFault => exact exec_takeOf_headsChange (v := .clearFault) run
  | readStatus => exact exec_takeOf_headsChange (v := .readStatus) run
  | resetUnit => exact exec_takeOf_headsChange (v := .resetUnit) run
  | setTiming => exact exec_takeOf_headsChange (v := .setTiming) run
  | start => exact exec_takeOf_headsChange (v := .start) run
  | stop => exact exec_takeOf_headsChange (v := .stop) run
  | writeTable => exact exec_takeOf_headsChange (v := .writeTable) run
  | readTable => exact exec_takeOf_headsChange (v := .readTable) run
  | sync => exact exec_takeOf_headsChange (v := .sync) run
  | commit => exact exec_takeOf_headsChange (v := .commit) run
  | cancel => exact exec_takeOf_headsChange (v := .cancel) run

/-- What every step of a head, every event of a frame and a reset keep, every command keeps of every head. -/
theorem HeadsChange.keeps {Inv : HeadSide → Prop} {s t : State} (change : HeadsChange s t)
    (step : ∀ k x y, HeadStep k x y → Inv x → Inv y)
    (frameStart : ∀ view regain frame x, Inv x → Inv (x.run (takeFrameStart view regain frame)))
    (absence : ∀ view x, Inv x → Inv (x.run (takeAbsence view)))
    (powerOn : ∀ k x, Inv x → Inv (x.withHead (resetHead k))) (inv : ∀ k, Inv (headSide k s)) (k : HeadId) :
    Inv (headSide k t) := by
  cases change with
  | steps _ heads => exact HeadSteps.keeps (step k) (heads k) (inv k)
  | frameStart view regain frame _ heads => exact heads k ▸ frameStart view regain frame _ (inv k)
  | absence view heads => exact heads k ▸ absence view _ (inv k)
  | powerOn heads => exact heads k ▸ powerOn k _ (inv k)

/-! ## Legal heads -/

theorem resetHead_legal (k : HeadId) : HeadLegal (resetHead k) := by
  obtain ⟨timing, mesh, blend⟩ := defaultTiming_inRange k
  exact ⟨timing, mesh, blend, by simp [resetHead], Nat.zero_le _, by simp [resetHead], Nat.zero_le _, Nat.zero_le _⟩

theorem resetHead_bounded (k : HeadId) : MissCountsBounded (resetHead k) := ⟨Nat.zero_le _, Nat.zero_le _, fun _ => le_rfl⟩

theorem HeadStep.keeps_legal {k : HeadId} {x y : HeadSide} (step : HeadStep k x y) (legal : HeadLegal x.head) :
    HeadLegal y.head := by
  cases step with
  | line view n => exact takeLine_legal view n legal
  | fillTimer fill => exact takeFillTimer_legal legal fill
  | stop => exact takeStop_legal legal
  | swap => exact swapWhen_head legal headLegal_swapHead
  | start locked parked => exact startHead_legal locked legal parked
  | arm armed => exact legal
  | retime timing parked range mesh blend =>
    have stop := stopPending_of_legal legal (by simp [parked])
    obtain ⟨⟨-, -, -, counts⟩, timer, -, -⟩ := (headLegal_iff _).1 legal
    exact (headLegal_iff _).2 ⟨⟨range, mesh, blend, counts⟩, timer, Nat.zero_le _, by simp [HeadSide.withHead, stop]⟩
  | store pairs fits => exact legal
  | clearCounts =>
    obtain ⟨⟨range, mesh, blend, -⟩, rest⟩ := (headLegal_iff _).1 legal
    exact (headLegal_iff _).2 ⟨⟨range, mesh, blend, Nat.zero_le _, Nat.zero_le _⟩, rest⟩
  | clearFlags => exact legal
  | resetUnit => exact resetHead_legal k

theorem HeadStep.keeps_bounded {k : HeadId} {x y : HeadSide} (step : HeadStep k x y) (legal : HeadLegal x.head)
    (bounded : MissCountsBounded x.head) : MissCountsBounded y.head := by
  cases step with
  | line view n => exact takeLine_bounded view n legal bounded
  | fillTimer fill => exact takeFillTimer_bounded bounded fill
  | stop => exact takeStop_bounded bounded
  | swap => exact swapWhen_head bounded missCountsBounded_swapHead
  | start locked parked => exact startHead_bounded locked bounded
  | arm armed => exact bounded
  | retime timing parked range mesh blend => exact ⟨Nat.zero_le _, Nat.zero_le _, fun _ => le_rfl⟩
  | store pairs fits => exact bounded
  | clearCounts => exact bounded
  | clearFlags => exact bounded
  | resetUnit => exact resetHead_bounded k

theorem HeadsChange.keeps_legal {s t : State} (change : HeadsChange s t) (legal : ∀ k, HeadLegal (s.heads.get k)) (k : HeadId) :
    HeadLegal (t.heads.get k) :=
  change.keeps (Inv := fun x => HeadLegal x.head) (fun _ _ _ step => step.keeps_legal)
    (fun view regain frame _ => takeFrameStart_legal view regain frame) (fun view _ => takeAbsence_legal view)
    (fun k _ _ => resetHead_legal k) legal k

theorem HeadsChange.keeps_bounded {s t : State} (change : HeadsChange s t)
    (inv : ∀ k, HeadLegal (s.heads.get k) ∧ MissCountsBounded (s.heads.get k)) (k : HeadId) :
    HeadLegal (t.heads.get k) ∧ MissCountsBounded (t.heads.get k) :=
  change.keeps (Inv := fun x => HeadLegal x.head ∧ MissCountsBounded x.head)
    (fun _ _ _ step inv => ⟨step.keeps_legal inv.1, step.keeps_bounded inv.1 inv.2⟩)
    (fun view regain frame _ inv =>
      ⟨takeFrameStart_legal view regain frame inv.1, takeFrameStart_bounded view regain frame inv.1 inv.2⟩)
    (fun view _ inv => ⟨takeAbsence_legal view inv.1, takeAbsence_bounded view inv.1 inv.2⟩)
    (fun k _ _ => ⟨resetHead_legal k, resetHead_bounded k⟩) inv k

/-! ## Running heads and the lock -/

/-- No step of a head but a frame start puts it in RUN. -/
theorem HeadStep.run_of_run {k : HeadId} {x y : HeadSide} (step : HeadStep k x y) (run : y.head.state = .run) :
    x.head.state = .run := by
  by_contra idle
  refine absurd run ?_
  cases step with
  | line view n =>
    rw [HeadSide.run, takeLine_of_idle view n idle]
    exact idle
  | fillTimer fill => exact fun now => by simp [HeadSide.run, takeFillTimer_state, fill] at now
  | stop => exact takeStop_state_ne_run idle
  | swap => exact swapWhen_head (P := fun h => h.state ≠ .run) idle fun _ _ => id
  | start locked parked => cases locked <;> simp [HeadSide.withHead, startHead, enterFill]
  | arm armed => exact idle
  | retime timing parked range mesh blend => exact idle
  | store pairs fits => exact idle
  | clearCounts => exact idle
  | clearFlags => exact idle
  | resetUnit => simp [HeadSide.withHead, resetUnitHead, resetHead]

theorem HeadsChange.keeps_lock {s t : State} (change : HeadsChange s t) (follows : RunFollowsLink s) : RunFollowsLink t := by
  intro k run
  have side : (headSide k t).head.state = .run := run
  cases change with
  | steps lock heads =>
    have running := HeadSteps.keeps (Inv := fun x => x.head.state ≠ .run)
      (fun _ _ step idle run => idle (step.run_of_run run)) (heads k)
    exact lock (follows k (by_contra fun idle => running idle run))
  | frameStart view regain frame locked _ => exact .inl locked
  | absence view heads =>
    rw [heads] at side
    exact absurd side (takeAbsence_state_ne_run view _)
  | powerOn heads =>
    rw [heads] at side
    cases side

/-- Settles O55: every command changes the heads in a way that keeps each legal and its counts bounded, and puts one in RUN at a
frame start alone. -/
theorem headsStayLegalAndFollowLink : Obligations.HeadsStayLegalAndFollowLink := by
  refine ⟨step_keeps (fun _ _ inv => inv) fun c s t inv run => ?_, fun s t legal run k => ?_⟩
  · obtain ⟨legal, follows⟩ := inv
    have change := exec_headsChange run
    exact ⟨change.keeps_legal legal, change.keeps_lock follows⟩
  · have kept : ∀ s t : State, (∀ k, HeadLegal (s.heads.get k) ∧ MissCountsBounded (s.heads.get k)) → step s = .next t →
        ∀ k, HeadLegal (t.heads.get k) ∧ MissCountsBounded (t.heads.get k) :=
      step_keeps (fun _ _ inv => inv) fun _ _ _ inv run => (exec_headsChange run).keeps_bounded inv
    exact (kept s t legal run k).2

end Sys2Proof.Proofs
end

section
/-! The codes at the head ports: what a head emits at each event lies in 0..1023 while its banks are in range (R43, R45, R56, R59),
and its banks stay so. -/

namespace Sys2Proof.Proofs

open Sys2Proof.Machine Sys2Proof.Safety Sys2Proof.Laws

/-! ## Lines -/

/-- Each of the three codes of a pixel lies in 0..1023. -/
def PixelLegal (p : Pixel) : Prop := p.r ≤ 1023 ∧ p.g ≤ 1023 ∧ p.b ≤ 1023

/-- Every pixel of every line that a port has emitted holds codes in 0..1023. -/
def PortLegal (port : List PortItem) : Prop := ∀ line, PortItem.line line ∈ port → ∀ p ∈ line, PixelLegal p

theorem portLegal_append {xs ys : List PortItem} (before : PortLegal xs) (after : PortLegal ys) : PortLegal (xs ++ ys) :=
  fun line member => (List.mem_append.1 member).elim (before line) (after line)

theorem portLegal_frameBegin : PortLegal [.frameBegin] := by simp [PortLegal]

/-- What an ENCODE bank in range gives out is a 10-bit code (R56). -/
theorem bankValue_encode_le {bank : Bank} (legal : BankLegal .encode bank) (e : Nat) : bankValue bank e ≤ 1023 := by
  unfold bankValue
  split
  · rename_i entries stored
    have entriesLegal := legal _ (List.mem_of_getElem? stored)
    rw [List.getD_eq_getElem?_getD]
    cases entry : entries[e % 64]? with
    | none => simp
    | some x => exact entriesLegal x (List.mem_of_getElem? entry)
  · exact Nat.zero_le _

/-- The fill codes of a TRIM bank in range are 10-bit codes (R45, R59). -/
theorem bankTrim_fill_legal {bank : Bank} (legal : BankLegal .trim bank) : PixelLegal (bankTrim bank).fill := by
  unfold bankTrim
  split
  · rename_i x stored
    exact (legal _ (List.mem_of_mem_head? stored)).2.2
  · exact ⟨Nat.zero_le _, Nat.zero_le _, Nat.zero_le _⟩

theorem lightPixel_legal {h : Head} (legal : PairsLegal h.pairs) (u v : Nat) (x : Sample) : PixelLegal (lightPixel h u v x) := by
  cases x with
  | blank => exact ⟨Nat.zero_le _, Nat.zero_le _, Nat.zero_le _⟩
  | taps ts =>
    have encode := bankValue_encode_le (legal .encode).1
    exact ⟨encode _, encode _, encode _⟩

theorem formLine_legal {h : Head} (legal : PairsLegal h.pairs) (view : View) (y : Nat) :
    ∀ p ∈ (formLine view h y).1, PixelLegal p := by
  intro p member
  rw [formLine_pixels] at member
  obtain ⟨u, -, rfl⟩ := List.mem_map.1 member
  exact lightPixel_legal legal u y _

theorem fillLine_legal {h : Head} (legal : PairsLegal h.pairs) : ∀ p ∈ fillLine h, PixelLegal p := by
  intro p member
  rw [List.eq_of_mem_replicate member]
  exact bankTrim_fill_legal (legal .trim).1

/-! ## The parts of an event -/

/-- A head in the course of an event has its banks in range and has emitted 10-bit codes alone. -/
def RunLegal (r : HeadRun) : Prop := PairsLegal r.head.pairs ∧ PortLegal r.emitted

theorem beginRun_runLegal {h : Head} (legal : PairsLegal h.pairs) : RunLegal (beginRun h) := ⟨legal, by simp [PortLegal, beginRun]⟩

theorem swapWhen_runLegal (due : ArmedCommit → Bool) {r : HeadRun} (legal : RunLegal r) : RunLegal (swapWhen due r) := by
  obtain ⟨same, -⟩ | ⟨c, -, -, swapped⟩ := swapWhen_cases due r
  · rwa [same]
  · rw [swapped]
    exact ⟨swapHead_legal c legal.1, legal.2⟩

theorem headFrameStart_runLegal (frame : Option Byte) {r : HeadRun} (legal : RunLegal r) : RunLegal (headFrameStart frame r) := by
  have swapped : RunLegal (swapWhen (dueAtFrame frame) { r with head := latchMisses r.head }) := swapWhen_runLegal _ legal
  exact ⟨swapped.1, portLegal_append swapped.2 portLegal_frameBegin⟩

theorem park_runLegal {r : HeadRun} (legal : RunLegal r) : RunLegal (park r) := swapWhen_runLegal _ legal

theorem formLines_runLegal (view : View) (ys : List Nat) {r : HeadRun} (legal : RunLegal r) : RunLegal (formLines view ys r) := by
  refine ⟨legal.1, portLegal_append legal.2 fun line member => ?_⟩
  obtain ⟨formed, inLines, same⟩ := List.mem_map.1 member
  obtain ⟨y, -, rfl⟩ := List.mem_map.1 inLines
  cases same
  exact formLine_legal legal.1 view y

theorem fillOwed_runLegal {r : HeadRun} (legal : RunLegal r) : RunLegal (fillOwed r) := by
  refine ⟨legal.1, portLegal_append legal.2 fun line member => ?_⟩
  cases List.eq_of_mem_replicate member
  exact fillLine_legal legal.1

theorem endFrame_runLegal (view : View) (asFill : Bool) {r : HeadRun} (legal : RunLegal r) : RunLegal (endFrame view asFill r) := by
  unfold endFrame
  split
  · split
    · exact fillOwed_runLegal legal
    · exact formLines_runLegal view _ legal
  · exact legal

/-! ## The events -/

section Events
variable {h : Head} (legal : PairsLegal h.pairs)
include legal

theorem takeFrameStart_runLegal (view : View) (regain : Bool) (frame : Byte) : RunLegal (takeFrameStart view regain frame h) := by
  have begun := beginRun_runLegal legal
  unfold takeFrameStart
  split
  case h_1 parked => exact swapWhen_runLegal _ begun
  case h_2 priming => exact headFrameStart_runLegal _ begun
  case h_3 fill => exact headFrameStart_runLegal _ begun
  case h_4 run =>
    have ended := endFrame_runLegal view regain begun
    dsimp only
    split
    · exact swapWhen_runLegal _ (park_runLegal ended)
    · exact headFrameStart_runLegal _ ended

theorem takeLine_runLegal (view : View) (n : Nat) : RunLegal (takeLine view n h) := by
  have begun := beginRun_runLegal legal
  unfold takeLine
  split
  case h_1 run =>
    have formed := formLines_runLegal view (dueLines view n h) begun
    dsimp only
    split
    · exact park_runLegal formed
    · exact formed
  all_goals exact begun

theorem takeAbsence_runLegal (view : View) : RunLegal (takeAbsence view h) := by
  have begun := beginRun_runLegal legal
  unfold takeAbsence
  split
  case h_4 run =>
    have ended := endFrame_runLegal view true begun
    dsimp only
    split
    · exact park_runLegal ended
    · exact ended
  all_goals exact begun

theorem takeFillTimer_runLegal : RunLegal (takeFillTimer h) :=
  fillOwed_runLegal (headFrameStart_runLegal none (beginRun_runLegal legal))

theorem takeStop_runLegal : RunLegal (takeStop h) := by
  have begun := beginRun_runLegal legal
  unfold takeStop
  split
  case h_1 parked => exact begun
  case h_2 priming => exact park_runLegal begun
  case h_3 fill => exact park_runLegal begun
  case h_4 run =>
    split_ifs
    · exact begun
    · exact begun
    · exact park_runLegal begun

end Events

/-! ## Every command -/

/-- A head's banks are in range and its port has emitted 10-bit codes alone. -/
def SideLegal (x : HeadSide) : Prop := PairsLegal x.head.pairs ∧ PortLegal x.port

theorem sideLegal_run {x : HeadSide} {f : Head → HeadRun} (side : SideLegal x) (run : RunLegal (f x.head)) : SideLegal (x.run f) :=
  ⟨run.1, portLegal_append side.2 run.2⟩

theorem HeadStep.keeps_sideLegal {k : HeadId} {x y : HeadSide} (step : HeadStep k x y) (legal : HeadLegal x.head)
    (side : SideLegal x) : SideLegal y := by
  cases step with
  | line view n => exact sideLegal_run side (takeLine_runLegal side.1 view n)
  | fillTimer fill => exact sideLegal_run side (takeFillTimer_runLegal side.1)
  | stop => exact sideLegal_run side (takeStop_runLegal side.1)
  | swap => exact sideLegal_run side (swapWhen_runLegal _ (beginRun_runLegal side.1))
  | start locked parked => cases locked <;> exact side
  | arm armed => exact side
  | retime timing parked range mesh blend => exact side
  | store pairs fits => exact ⟨fits legal side.1, side.2⟩
  | clearCounts => exact side
  | clearFlags => exact side
  | resetUnit => exact side

theorem HeadsChange.keeps_sideLegal {s t : State} (change : HeadsChange s t)
    (inv : ∀ k, HeadLegal (headSide k s).head ∧ SideLegal (headSide k s)) (k : HeadId) : SideLegal (headSide k t) :=
  (change.keeps (Inv := fun x => HeadLegal x.head ∧ SideLegal x)
    (fun _ _ _ step inv => ⟨step.keeps_legal inv.1, step.keeps_sideLegal inv.1 inv.2⟩)
    (fun view regain frame _ inv =>
      ⟨takeFrameStart_legal view regain frame inv.1, sideLegal_run inv.2 (takeFrameStart_runLegal inv.2.1 view regain frame)⟩)
    (fun view _ inv => ⟨takeAbsence_legal view inv.1, sideLegal_run inv.2 (takeAbsence_runLegal inv.2.1 view)⟩)
    (fun k _ inv => ⟨resetHead_legal k, defaultPairs_legal k, inv.2.2⟩) inv k).2

/-- Settles O59: every command changes the heads in a way that keeps each one's banks in range, and what a head emits from such
banks is in range. -/
theorem emittedCodesStayInRange : Obligations.EmittedCodesStayInRange := by
  have kept : ∀ s t : State, (∀ k, HeadLegal (s.heads.get k) ∧ SideLegal (headSide k s)) → step s = .next t →
      ∀ k, HeadLegal (t.heads.get k) ∧ SideLegal (headSide k t) :=
    step_keeps (fun _ _ inv => inv) fun _ _ _ inv run k =>
      ⟨(exec_headsChange run).keeps_legal (fun k => (inv k).1) k, (exec_headsChange run).keeps_sideLegal inv k⟩
  rintro s t ⟨legal, tables, codes⟩ run
  have after := kept s t (fun k => ⟨legal k, tables k, codes k⟩) run
  exact ⟨fun k => (after k).2.1, fun k => (after k).2.2⟩

end Sys2Proof.Proofs
end

section
/-! What a head in RUN emits and becomes at a frame start that finds lines owed and at an input line (chapter 4; R63 to R66, R68,
R71, R80, R81, R99 to R101), as whole runs of the head. -/

namespace Sys2Proof.Proofs

open Sys2Proof.Machine Sys2Proof.Laws

/-! ## Swaps, frame starts and parking -/

theorem swapWhen_of_due {due : ArmedCommit → Bool} {r : HeadRun} {c : ArmedCommit} (armed : r.head.armed = some c)
    (isDue : due c = true) : swapWhen due r = { r with head := swapHead c r.head, swapped := some c } := by
  simp [swapWhen, armed, isDue]

theorem swapWhen_of_not_due {due : ArmedCommit → Bool} {r : HeadRun} (notDue : ∀ c, r.head.armed = some c → due c = false) :
    swapWhen due r = r := by
  obtain ⟨same, -⟩ | ⟨c, armed, isDue, -⟩ := swapWhen_cases due r
  · exact same
  · simp [notDue c armed] at isDue

/-- A commit is due at a frame start where it is untagged or tagged with the frame's number (R99). -/
theorem dueAtFrame_iff (f : Byte) (c : ArmedCommit) :
    dueAtFrame (some f) c = true ↔ c.frameTag = none ∨ c.frameTag = some f := by
  unfold dueAtFrame
  split
  · rename_i untagged
    simp [untagged]
  · rename_i t tagged
    rw [tagged, beq_iff_eq]
    exact ⟨fun same => .inr same.symm, fun due => (due.resolve_left (by simp)).symm⟩

theorem dueAtParking_iff (c : ArmedCommit) : dueAtParking c = true ↔ c.frameTag = none := by simp [dueAtParking]

theorem dueWhileParked_iff (f : Byte) (c : ArmedCommit) : dueWhileParked f c = true ↔ c.frameTag = some f := by
  simp [dueWhileParked]

/-- A head at a frame start, before a swap (R68). -/
def startedHead (h : Head) : Head := { latchMisses h with nextLine := 0 }

/-- A head that has parked, before a swap (R81). -/
def parkedHead (h : Head) : Head :=
  { latchMisses h with state := .parked, stopPending := false, fillTimer := none, nextLine := 0, parkedFlag := true }

section
variable {frame : Option Byte} {r : HeadRun}

theorem headFrameStart_of_due {c : ArmedCommit} (armed : r.head.armed = some c) (due : dueAtFrame frame c = true) :
    headFrameStart frame r =
      { head := swapHead c (startedHead r.head), emitted := r.emitted ++ [.frameBegin], swapped := some c } := by
  simp only [headFrameStart, swapWhen_of_due (r := { r with head := latchMisses r.head }) armed due]
  rfl

theorem headFrameStart_of_not_due (notDue : ∀ c, r.head.armed = some c → dueAtFrame frame c = false) :
    headFrameStart frame r = { r with head := startedHead r.head, emitted := r.emitted ++ [.frameBegin] } := by
  simp only [headFrameStart, swapWhen_of_not_due (r := { r with head := latchMisses r.head }) notDue]
  rfl

theorem park_of_due {c : ArmedCommit} (armed : r.head.armed = some c) (untagged : c.frameTag = none) :
    park r = { r with head := swapHead c (parkedHead r.head), swapped := some c } :=
  swapWhen_of_due (r := { r with head := parkedHead r.head }) armed ((dueAtParking_iff c).2 untagged)

theorem park_of_not_due (tagged : ∀ c, r.head.armed = some c → c.frameTag ≠ none) :
    park r = { r with head := parkedHead r.head } :=
  swapWhen_of_not_due (r := { r with head := parkedHead r.head }) fun c armed =>
    Bool.eq_false_iff.2 (mt (dueAtParking_iff c).1 (tagged c armed))

end

/-! ## A frame start with lines owed (R65, R71, R80) -/

/-- A head swaps its armed commit at an event where `due` holds of it, after which it is `after`, or is `after` unswapped. -/
def SwapsWhere (due : ArmedCommit → Prop) (h after : Head) (out : List PortItem) (run : HeadRun) : Prop :=
  (∀ c, h.armed = some c → due c → run = { head := swapHead c after, emitted := out, swapped := some c }) ∧
    ((∀ c, h.armed = some c → ¬due c) → run = { head := after, emitted := out, swapped := none })

/-- A running head with owed lines goes on to its new frame (R68, R99). -/
theorem headFrameStart_swapsWhere (f : Byte) {r : HeadRun} (unswapped : r.swapped = none) :
    SwapsWhere (fun c => c.frameTag = none ∨ c.frameTag = some f) r.head (startedHead r.head) (r.emitted ++ [.frameBegin])
      (headFrameStart (some f) r) := by
  refine ⟨fun c armed due => headFrameStart_of_due armed ((dueAtFrame_iff f c).2 due), fun notDue => ?_⟩
  rw [headFrameStart_of_not_due fun c armed => Bool.eq_false_iff.2 (mt (dueAtFrame_iff f c).1 (notDue c armed)), unswapped]

/-- A stopping head parks, where an untagged commit swaps, and takes the frame start parked, where one tagged with its number
swaps (R80, R81, R101). -/
theorem park_swapsWhere (f : Byte) {r : HeadRun} (unswapped : r.swapped = none) :
    SwapsWhere (fun c => c.frameTag = none ∨ c.frameTag = some f) r.head (parkedHead r.head) r.emitted
      (swapWhen (dueWhileParked f) (park r)) := by
  refine ⟨fun c armed due => ?_, fun notDue => ?_⟩
  · obtain untagged | tagged := due
    · rw [park_of_due armed untagged]
      exact swapWhen_of_not_due fun _ armed => by cases armed
    · rw [park_of_not_due fun c' armed' => by
        cases armed.symm.trans armed'
        simp [tagged]]
      exact swapWhen_of_due (r := { r with head := parkedHead r.head }) armed ((dueWhileParked_iff f c).2 tagged)
  · rw [park_of_not_due fun c armed untagged => notDue c armed (.inl untagged)]
    rw [swapWhen_of_not_due (r := { r with head := parkedHead r.head }) fun c armed =>
      Bool.eq_false_iff.2 (mt (dueWhileParked_iff f c).1 fun tagged => notDue c armed (.inr tagged)), unswapped]

theorem endFrame_of_owed (view : View) (asFill : Bool) {r : HeadRun} (owed : r.head.nextLine < r.head.timing.height) :
    endFrame view asFill r = countShort (if asFill then fillOwed r else formLines view (owedLines r.head) r) := if_pos owed

/-- A running head at the end of a frame whose owed lines it forms, or emits as fill where `asFill`, one short frame counted (R65,
R66, R71). -/
def endedRun (view : View) (asFill : Bool) (h : Head) : HeadRun :=
  countShort (if asFill then fillOwed (beginRun h) else formLines view (owedLines h) (beginRun h))

section
variable {h : Head} (view : View) (regain : Bool) (f : Byte) (run : h.state = .run) (owed : h.nextLine < h.timing.height)
include run owed

theorem takeFrameStart_of_owed :
    takeFrameStart view regain f h =
      if h.stopPending then swapWhen (dueWhileParked f) (park (endedRun view regain h))
      else headFrameStart (some f) (endedRun view regain h) := by
  simp only [takeFrameStart, run, endFrame_of_owed view regain (r := beginRun h) owed]
  rfl

theorem takeFrameStart_goesOn (goesOn : h.stopPending = false) :
    SwapsWhere (fun c => c.frameTag = none ∨ c.frameTag = some f) h (startedHead (endedRun view regain h).head)
      ((endedRun view regain h).emitted ++ [.frameBegin]) (takeFrameStart view regain f h) := by
  rw [takeFrameStart_of_owed view regain f run owed, goesOn]
  cases regain
  · exact headFrameStart_swapsWhere f (r := endedRun view false h) rfl
  · exact headFrameStart_swapsWhere f (r := endedRun view true h) rfl

theorem takeFrameStart_parks (stopping : h.stopPending = true) :
    SwapsWhere (fun c => c.frameTag = none ∨ c.frameTag = some f) h (parkedHead (endedRun view regain h).head)
      (endedRun view regain h).emitted (takeFrameStart view regain f h) := by
  rw [takeFrameStart_of_owed view regain f run owed, stopping]
  cases regain
  · exact park_swapsWhere f (r := endedRun view false h) rfl
  · exact park_swapsWhere f (r := endedRun view true h) rfl

end

/-- A head without a running fill timer parks with none. -/
theorem parkedHead_of_untimed {h : Head} (timer : h.fillTimer = none) :
    parkedHead h = { latchMisses h with state := .parked, stopPending := false, nextLine := 0, parkedFlag := true } := by
  simp [parkedHead, latchMisses, timer]

/-- Settles O19: the owed lines are formed or filled and one short frame counted; then the head goes on or parks. -/
theorem owedLinesEndTheFrame : Obligations.OwedLinesEndTheFrame := by
  intro view f h run owed timer
  refine ⟨fun goesOn => ⟨?_, ?_⟩, fun stopping => ⟨?_, ?_⟩⟩
  · exact takeFrameStart_goesOn view false f run owed goesOn
  · exact takeFrameStart_goesOn view true f run owed goesOn
  · have parks := takeFrameStart_parks view false f run owed stopping
    rw [parkedHead_of_untimed (h := (endedRun view false h).head) timer] at parks
    exact parks
  · have parks := takeFrameStart_parks view true f run owed stopping
    rw [parkedHead_of_untimed (h := (endedRun view true h).head) timer] at parks
    exact parks

/-! ## The release schedule (R62, R63) -/

/-- Of ascending numbers, those before the first that fails a condition are all that meet it, where the condition passes from a
number to every lower one. -/
theorem mem_takeWhile_range' {p : Nat → Bool} (down : ∀ a b, a ≤ b → p b = true → p a = true) (start count y : Nat) :
    y ∈ (List.range' start count).takeWhile p ↔ start ≤ y ∧ y < start + count ∧ p y = true := by
  induction count generalizing start with
  | zero =>
    simp only [List.range'_zero, List.takeWhile_nil, List.not_mem_nil, false_iff]
    omega
  | succ count ih =>
    rw [List.range'_succ, List.takeWhile_cons]
    split
    · rename_i first
      rw [List.mem_cons, ih]
      constructor
      · rintro (rfl | ⟨above, below, meets⟩)
        · exact ⟨le_rfl, by omega, first⟩
        · exact ⟨by omega, by omega, meets⟩
      · rintro ⟨above, below, meets⟩
        by_cases same : y = start
        · exact .inl same
        · exact .inr ⟨by omega, by omega, meets⟩
    · rename_i fails
      simp only [List.not_mem_nil, false_iff]
      exact fun ⟨above, _, meets⟩ => fails (down _ _ above meets)

/-- Release lines ascend with the output lines (R62). -/
theorem releaseLine_mono (t : Timing) {a b : Nat} (le : a ≤ b) : releaseLine t a ≤ releaseLine t b :=
  Nat.add_le_add_left (Nat.div_le_div_right (Nat.mul_le_mul_right _ le)) _

/-- The lines due at input line `n` are the owed ones whose release line, held to the frame, is `n` or less (R62, R63). -/
theorem mem_dueLines {view : View} {n : Nat} {h : Head} (y : Nat) :
    y ∈ dueLines view n h ↔
      h.nextLine ≤ y ∧ y < h.timing.height ∧ min (releaseLine h.timing y) (view.height - 1) ≤ n := by
  rw [dueLines, owedLines, mem_takeWhile_range' fun a b le due => ?_]
  · rw [decide_eq_true_iff]
    omega
  · have mono := releaseLine_mono h.timing le
    rw [decide_eq_true_iff] at due ⊢
    omega

theorem dueLines_eq_range' (view : View) (n : Nat) (h : Head) :
    dueLines view n h = List.range' h.nextLine (dueLines view n h).length := by
  have front : dueLines view n h <+: owedLines h := List.takeWhile_prefix _
  refine List.ext_getElem (by simp) fun i inDue _ => ?_
  rw [front.getElem inDue]
  simp [owedLines]

/-- A running head forms its due lines, and parks where it is stopping and owes no more (R63, R80). -/
theorem takeLine_of_run (view : View) (n : Nat) {h : Head} (run : h.state = .run) :
    takeLine view n h =
      if h.stopPending = true ∧ h.timing.height ≤ h.nextLine + (dueLines view n h).length then
        park (formLines view (dueLines view n h) (beginRun h))
      else formLines view (dueLines view n h) (beginRun h) := by
  simp only [takeLine, run, Bool.and_eq_true, decide_eq_true_eq]
  rfl

/-- Settles O21: the due lines are formed, and a stopping head that owes no more parks. -/
theorem runningHeadReleasesExactlyDueLines : Obligations.RunningHeadReleasesExactlyDueLines := by
  intro view n h
  refine ⟨takeLine_of_idle view n, fun run _ => ⟨dueLines view n h, mem_dueLines, dueLines_eq_range' view n h, ?_⟩⟩
  rw [takeLine_of_run view n run]
  refine ⟨fun goesOn => ?_, fun stopping last => ?_⟩
  · rw [if_neg]
    · rfl
    · rintro ⟨stopping, last⟩
      obtain running | owed := goesOn
      · simp [running] at stopping
      · omega
  · rw [if_pos ⟨stopping, last⟩]
    exact ⟨fun c armed untagged => park_of_due armed untagged, fun tagged => park_of_not_due tagged⟩

end Sys2Proof.Proofs
end

section
/-! The arguments a verb's own rule refuses, and the ranges, codes and shapes they are judged by (R18, R19, R47, R60, R76, R86, R89,
R92, R97, R104, R121, R195, R196). -/

namespace Sys2Proof.Proofs

open Sys2Proof.Machine Sys2Proof.Safety Sys2Proof.Laws

/-! ## Takes judged by the verb's rule -/

section Due
variable {v : Verb} {p : Packet} {rest : List Packet} {s : State}

/-- A due take that its verb's rule refuses for an argument is refused so, whatever its head mask (R136, R137). -/
theorem exec_takeOf_of_badArg (takes : Takes v p rest s) (refusal : ruleOf v p (afterTake rest s) = .refuse .badArg) :
    exec (takeOf v) s = .next (refuseTake .badArg p (afterTake rest s)) := by
  rw [exec_takeOf, takeVerb_of_takes takes, refusal]
  simp

/-- A due take with a head in its mask does what the verb's rule carries out. -/
theorem exec_takeOf_of_masked {s' : State} (takes : Takes v p rest s) (masked : packetHeads p ≠ [])
    (carry : ruleOf v p (afterTake rest s) = .carryOut s') : exec (takeOf v) s = .next s' := by
  rw [exec_takeOf, takeVerb_of_takes takes, carry]
  simp [masked]

end Due

/-- The guard lets a verb pass in LENIENT or on an empty fault record (R158). -/
theorem guardPasses_iff (r : FaultRecord) : guardPasses r = true ↔ r.guard = .lenient ∨ r.entry = none := by
  simp [guardPasses]

/-! ## Refusals, verb by verb -/

section Rules
variable {p : Packet} {s : State}

theorem ruleSetTiming_of_notOneHead (heads : ∀ h, packetHeads p ≠ [h]) : ruleSetTiming p s = .refuse .badArg := by
  unfold ruleSetTiming
  split
  · rename_i h one
    exact absurd one (heads h)
  · rfl

section Parked
variable {h : HeadId} (one : packetHeads p = [h]) (parked : (s.heads.get h).state = .parked)
  (guard : s.fault.guard = .lenient ∨ s.fault.entry = none)
include one parked guard

/-- SET-TIMING of one parked head past the guard, of a timing that suits (R76). -/
theorem ruleSetTiming_of_fits (range : timingInRange (readTiming p.body) = true) (mesh : meshFits (readTiming p.body) = true)
    (blend : blendFits (readTiming p.body) = true) : ruleSetTiming p s = .carryOut (beginGeneration p h s) := by
  simp [ruleSetTiming, one, parked, (guardPasses_iff _).2 guard, range, mesh, blend]

/-- SET-TIMING of one parked head past the guard, of a timing that does not suit (R76). -/
theorem ruleSetTiming_of_unfit
    (unfit : timingInRange (readTiming p.body) = false ∨ meshFits (readTiming p.body) = false ∨
      blendFits (readTiming p.body) = false) : ruleSetTiming p s = .refuse .badArg := by
  obtain range | mesh | blend := unfit
  · simp [ruleSetTiming, one, parked, (guardPasses_iff _).2 guard, range]
  · simp [ruleSetTiming, one, parked, (guardPasses_iff _).2 guard, mesh]
  · simp [ruleSetTiming, one, parked, (guardPasses_iff _).2 guard, blend]

end Parked

theorem ruleWriteTable_of_noTable (table : tableOf (natAt p.body 0) = none) : ruleWriteTable p s = .refuse .badArg := by
  simp only [ruleWriteTable, table]

/-- WRITE-TABLE of a form, a segment or a count that does not suit (R86). -/
theorem ruleWriteTable_of_unfit {t : Table} (table : tableOf (natAt p.body 0) = some t)
    (unfit : (t = .blend ∧ 1 < natAt p.body 1) ∨
      ∃ h ∈ packetHeads p, segmentCount (s.heads.get h).timing t ≤ natAt p.body 2 ∨
        natAt p.body 3 ≠ entryCount (s.heads.get h).timing t (natAt p.body 2)) :
    ruleWriteTable p s = .refuse .badArg := by
  simp only [ruleWriteTable, table]
  split_ifs with form segment count occupied
  · rfl
  · rfl
  · rfl
  all_goals
    simp only [List.any_eq_true, decide_eq_true_eq, bne_iff_ne, not_exists, not_and] at segment count
    obtain badForm | ⟨h, masked, past | other⟩ := unfit
    · exact absurd badForm form
    · exact absurd past (segment h masked)
    · exact absurd other (count h masked)

theorem ruleReadTable_of_unfit
    (unfit : (∀ h, packetHeads p ≠ [h]) ∨ tableOf (natAt p.body 0) = none ∨ 1 < natAt p.body 1 ∨
      ∃ h t, packetHeads p = [h] ∧ tableOf (natAt p.body 0) = some t ∧
        segmentCount (s.heads.get h).timing t ≤ natAt p.body 2) :
    ruleReadTable p s = .refuse .badArg := by
  unfold ruleReadTable
  split
  · rename_i h one
    split
    · rfl
    · rename_i t table
      split_ifs with bank segment
      · rfl
      · rfl
      · obtain heads | noneNamed | past | ⟨h', t', one', table', past⟩ := unfit
        · exact absurd one (heads h)
        · simp [table] at noneNamed
        · exact absurd past bank
        · rw [one] at one'
          rw [table] at table'
          cases one'
          cases table'
          exact absurd past segment
  · rfl

theorem ruleSetAccept_of_unfit
    (unfit : 1 < natAt p.body 0 ∨ listedAddresses p.body = [] ∨ 8 < (listedAddresses p.body).length ∨
      ∃ a ∈ listedAddresses p.body, a.toNat < 16 ∨ a = 255#8) : ruleSetAccept p s = .refuse .badArg := by
  unfold ruleSetAccept
  dsimp only
  split
  · rfl
  · rename_i action
    split
    · rfl
    · rename_i count
      split
      · rfl
      · rename_i range
        simp only [List.any_eq_true, Bool.or_eq_true, decide_eq_true_eq, not_exists, not_and] at range
        exfalso
        obtain undefined | empty | many | ⟨a, listed, low | broadcast⟩ := unfit
        · exact action undefined
        · exact count (.inl (by simp [empty]))
        · exact count (.inr many)
        · exact range a listed (.inl low)
        · exact range a listed (.inr (by simp [broadcast]))

theorem ruleSync_of_noTable (noneNamed : setTables (tableSetOf (byteAt p.body 0)) = []) : ruleSync p s = .refuse .badArg := if_pos noneNamed

theorem ruleCommit_of_noTable (noneNamed : setTables (tableSetOf (byteAt p.body 0)) = []) : ruleCommit p s = .refuse .badArg :=
  if_pos noneNamed

theorem ruleCancel_of_noTable (noneNamed : setTables (tableSetOf (byteAt p.body 0)) = []) : ruleCancel p s = .refuse .badArg :=
  if_pos noneNamed

end Rules

/-! ## Ranges and shapes -/

theorem timingInRange_iff (t : Timing) :
    timingInRange t = true ↔
      256 ≤ t.width ∧ t.width ≤ 2048 ∧ t.width % 8 = 0 ∧ 128 ≤ t.height ∧ t.height ≤ 1280 ∧ 4 ≤ t.k ∧ t.k ≤ 7 ∧ 4 ≤ t.b ∧
        t.b ≤ 6 ∧ t.delay ≤ 4095 ∧ 1024 ≤ t.lineStep ∧ t.lineStep ≤ 16384 ∧ 8000 ≤ t.fillPeriod ∧ t.fillPeriod ≤ 50000 := by
  simp only [timingInRange, Bool.and_eq_true, decide_eq_true_eq, and_assoc]

/-- A size of at least one pixel takes 1 to `most` cells where it is at most so many cells wide. -/
theorem ceilDiv_le_iff {n d : Nat} (cell : 0 < d) (most : Nat) : ceilDiv n d ≤ most ↔ n ≤ most * d := by
  rw [ceilDiv, Nat.div_le_iff_le_mul_add_pred cell, mul_comm]
  omega

theorem one_le_ceilDiv {n d : Nat} (cell : 0 < d) (size : 0 < n) : 1 ≤ ceilDiv n d := by
  by_contra noneNamed
  have fits := (ceilDiv_le_iff (n := n) cell 0).1 (by omega)
  omega

/-- A mesh fits where the output is at most 32 cells wide and high (R18). -/
theorem meshFits_iff {t : Timing} (range : timingInRange t = true) :
    meshFits t = true ↔ t.width ≤ 32 * 2 ^ t.k ∧ t.height ≤ 32 * 2 ^ t.k := by
  obtain ⟨wide, -, -, high, -⟩ := (timingInRange_iff t).1 range
  have cell := meshCell_pos t
  have across := one_le_ceilDiv cell (show 0 < t.width by omega)
  have down := one_le_ceilDiv cell (show 0 < t.height by omega)
  have widest := ceilDiv_le_iff (n := t.width) cell 32
  have highest := ceilDiv_le_iff (n := t.height) cell 32
  rw [meshFits, Bool.and_eq_true, decide_eq_true_eq, decide_eq_true_eq, meshAcross, meshDown, ← meshCell]
  omega

/-- A blend grid fits where the output is at most 64 cells wide and high (R47). -/
theorem blendFits_iff (t : Timing) : blendFits t = true ↔ t.width ≤ 64 * 2 ^ t.b ∧ t.height ≤ 64 * 2 ^ t.b := by
  have widest := ceilDiv_le_iff (n := t.width) (blendCell_pos t) 64
  have highest := ceilDiv_le_iff (n := t.height) (blendCell_pos t) 64
  rw [blendFits, Bool.and_eq_true, decide_eq_true_eq, decide_eq_true_eq, blendAcross, blendDown, ← blendCell]
  omega

/-- Codes from 5 on name no table (R196). -/
theorem tableOf_of_undefined {code : Nat} (undefined : 5 ≤ code) : tableOf code = none := by
  refine List.find?_eq_none.2 fun t _ => ?_
  cases t <;> simp only [tableCode, beq_iff_eq] <;> omega

theorem tableOf_codes :
    (List.range 256).map tableOf =
      [some .mesh, some .blend, some .decode, some .encode, some .trim] ++ List.replicate 251 none := by
  show (List.range (5 + 251)).map tableOf = _
  rw [List.range_add, List.map_append, List.map_map]
  refine congrArg₂ _ rfl (List.eq_replicate_iff.2 ⟨by simp, fun x named => ?_⟩)
  obtain ⟨i, -, rfl⟩ := List.mem_map.1 named
  exact tableOf_of_undefined (Nat.le_add_right 5 i)

/-- Settles O37: each verb's rule refuses what does not suit, and the ranges and shapes are those of the timing. -/
theorem argumentsOutsideTheirRangeAreRefused : Obligations.ArgumentsOutsideTheirRangeAreRefused := by
  refine ⟨fun s p rest => ⟨fun takes heads => ?_, fun h takes one parked guard unfit => ?_, fun takes table => ?_,
    fun t takes table unfit => ?_, fun takes unfit => ?_, fun noneNamed => ⟨fun takes => ?_, fun takes => ?_, fun takes => ?_⟩,
    fun takes unfit => ?_⟩, fun t => ⟨timingInRange_iff t, fun range => ⟨meshFits_iff range, blendFits_iff t⟩⟩,
    fun body => rfl, tableOf_codes, fun t => ?_⟩
  · exact exec_takeOf_of_badArg (v := .setTiming) takes (ruleSetTiming_of_notOneHead heads)
  · exact exec_takeOf_of_badArg (v := .setTiming) takes (ruleSetTiming_of_unfit (s := afterTake rest s) one parked guard unfit)
  · exact exec_takeOf_of_badArg (v := .writeTable) takes (ruleWriteTable_of_noTable table)
  · exact exec_takeOf_of_badArg (v := .writeTable) takes (ruleWriteTable_of_unfit table unfit)
  · exact exec_takeOf_of_badArg (v := .readTable) takes (ruleReadTable_of_unfit unfit)
  · exact exec_takeOf_of_badArg (v := .sync) takes (ruleSync_of_noTable noneNamed)
  · exact exec_takeOf_of_badArg (v := .commit) takes (ruleCommit_of_noTable noneNamed)
  · exact exec_takeOf_of_badArg (v := .cancel) takes (ruleCancel_of_noTable noneNamed)
  · exact exec_takeOf_of_badArg (v := .setAccept) takes (ruleSetAccept_of_unfit unfit)
  · exact ⟨rfl, rfl, rfl, rfl, rfl, rfl, rfl, rfl, fun j => rfl, rfl, fun n => rfl, rfl, rfl, rfl, fun n => ⟨rfl, rfl, rfl⟩⟩

end Sys2Proof.Proofs
end

section
/-! Writing a segment: WRITE-TABLE's take and its completion, and the segment that entry bytes are stored as (R20, R21, R43, R45,
R48, R49, R56, R86 to R88, R193, R196). -/

namespace Sys2Proof.Proofs

open Sys2Proof.Machine Sys2Proof.Safety Sys2Proof.Laws

/-! ## The take (R86, R87) -/

theorem shadowOccupied_eq_false_iff (s : State) (h : HeadId) (t : Table) :
    shadowOccupied s h t = false ↔ shadowState s h t ≠ .syncing ∧ shadowState s h t ≠ .armed := by
  simp [shadowOccupied]

theorem ruleWriteTable_of_fits {p : Packet} {s : State} {t : Table} (table : tableOf (natAt p.body 0) = some t)
    (form : t = .blend → natAt p.body 1 ≤ 1)
    (fits : ∀ h ∈ packetHeads p, natAt p.body 2 < segmentCount (s.heads.get h).timing t ∧
      natAt p.body 3 = entryCount (s.heads.get h).timing t (natAt p.body 2) ∧
      shadowState s h t ≠ .syncing ∧ shadowState s h t ≠ .armed) :
    ruleWriteTable p s = .carryOut { s with loader := { s.loader with state := .writing p } } := by
  simp only [ruleWriteTable, table]
  rw [if_neg (fun bad => by have := form bad.1; omega), if_neg, if_neg, if_neg]
  all_goals
    simp only [List.any_eq_true, not_exists, not_and]
    intro h masked
    obtain ⟨segment, count, free⟩ := fits h masked
  · simpa using (shadowOccupied_eq_false_iff s h t).2 free
  · simpa using count
  · simpa using segment

/-! ## The completion (R87) -/

/-- A state in which a segment has been stored on the masked heads and the loader is idle (R87). -/
def storedWrite (p : Packet) (t : Table) (s : State) : State :=
  { s with loader := { s.loader with state := .idle }
           heads := storeOnHeads (packetMask p) t (natAt p.body 2) (writtenSegment t p.body) s.heads }

theorem writeCompletion_of_writing {s : State} {p : Packet} {t : Table} (writing : s.loader.state = .writing p)
    (table : tableOf (natAt p.body 0) = some t) :
    writeCompletion s = answerPacket p .done (writeBody p t (storedWrite p t s)) (storedWrite p t s) := by
  simp only [writeCompletion, writing, table]
  rfl

/-- An answer changes no shadow's state. -/
@[simp] theorem shadowState_answerPacket (p : Packet) (o : OutcomeCode) (body : List Byte) (s : State) (h : HeadId) (t : Table) :
    shadowState (answerPacket p o body s) h t = shadowState s h t := by
  rw [answerPacket_eq]
  rfl

@[simp] theorem answerPacket_heads (p : Packet) (o : OutcomeCode) (body : List Byte) (s : State) :
    (answerPacket p o body s).heads = s.heads := by
  rw [answerPacket_eq]

theorem writeBody_answerPacket (q : Packet) (t : Table) (p : Packet) (o : OutcomeCode) (body : List Byte) (s : State) :
    writeBody q t (answerPacket p o body s) = writeBody q t s := by simp [writeBody]

theorem storeOnHeads_get (mask : HeadMask) (t : Table) (seg : Nat) (data : Segment) (hs : PerHead Head) (h : HeadId) :
    (storeOnHeads mask t seg data hs).get h =
      if mask.get h then { hs.get h with pairs := (hs.get h).pairs.set t (storeSegment seg data ((hs.get h).pairs.get t)) }
      else hs.get h := perHead_get_mapHeads _ _ _

/-! ## Entries as bytes (R193, R196) -/

section Fields
variable (bytes : List Byte) {size j : Nat} (i : Nat)

theorem natAt_entryBytes (inEntry : j < size) : natAt (entryBytes bytes size i) j = natAt bytes (size * i + j) := by
  rw [natAt, byteAt_entryBytes bytes i inEntry, mul_comm]
  rfl

theorem natAt2_entryBytes (inEntry : j + 1 < size) : natAt2 (entryBytes bytes size i) j = natAt2 bytes (size * i + j) := by
  simp only [natAt2, natAt_entryBytes bytes i (show j < size by omega), natAt_entryBytes bytes i inEntry]
  rfl

theorem intAt3_entryBytes (inEntry : j + 2 < size) : intAt3 (entryBytes bytes size i) j = intAt3 bytes (size * i + j) := by
  simp only [intAt3, natAt_entryBytes bytes i (show j < size by omega), natAt2_entryBytes bytes i (j := j + 1) inEntry]
  rfl

theorem natAt_lt : natAt bytes i < 256 := (byteAt bytes i).isLt

/-- A signed two-byte field is its unsigned value, less 65536 from 32768 on (R193). -/
theorem intAt2_eq :
    intAt2 bytes i = if natAt2 bytes i < 32768 then (natAt2 bytes i : Int) else (natAt2 bytes i : Int) - 65536 := by
  have high := natAt_lt bytes i
  have low := natAt_lt bytes (i + 1)
  rw [intAt2, BitVec.toInt_eq_toNat_cond, BitVec.toNat_ofNat]
  simp only [natAt2]
  split_ifs <;> omega

/-- A signed three-byte field is its unsigned value, less 16777216 from 8388608 on (R193, R196). -/
theorem intAt3_eq :
    intAt3 bytes i =
      if (natAt bytes i : Int) * 65536 + natAt2 bytes (i + 1) < 8388608 then (natAt bytes i : Int) * 65536 + natAt2 bytes (i + 1)
      else (natAt bytes i : Int) * 65536 + natAt2 bytes (i + 1) - 16777216 := by
  have high := natAt_lt bytes i
  have middle := natAt_lt bytes (i + 1)
  have low := natAt_lt bytes (i + 2)
  rw [intAt3, BitVec.toInt_eq_toNat_cond, BitVec.toNat_ofNat]
  simp only [natAt2, show i + 1 + 1 = i + 2 from rfl]
  split_ifs <;> omega

theorem readPoint_entryBytes :
    readPoint (entryBytes bytes 7 i) =
      { sx := clampInt (intAt3 bytes (7 * i)) (-131072) 131071, sy := clampInt (intAt3 bytes (7 * i + 3)) (-131072) 131071
        blank := (byteAt bytes (7 * i + 6)).getLsbD 0 } := by
  simp only [readPoint, intAt3_entryBytes bytes i (size := 7) (j := 0) (by omega),
    intAt3_entryBytes bytes i (size := 7) (j := 3) (by omega), byteAt_entryBytes bytes i (size := 7) (j := 6) (by omega),
    mul_comm i]
  rfl

theorem readBlend_entryBytes_plain :
    readBlend false (entryBytes bytes 2 i) = { weight := min (natAt2 bytes (2 * i)) 4096, lift := none } := by
  simp only [readBlend, natAt2_entryBytes bytes i (size := 2) (j := 0) (by omega)]
  rfl

theorem readBlend_entryBytes_lifted :
    readBlend true (entryBytes bytes 4 i) =
      { weight := min (natAt2 bytes (4 * i)) 4096, lift := some (min (natAt2 bytes (4 * i + 2)) 4095) } := by
  simp only [readBlend, natAt2_entryBytes bytes i (size := 4) (j := 0) (by omega),
    natAt2_entryBytes bytes i (size := 4) (j := 2) (by omega)]
  rfl

theorem readValue_entryBytes : natAt2 (entryBytes bytes 2 i) 0 = natAt2 bytes (2 * i) :=
  natAt2_entryBytes bytes i (size := 2) (j := 0) (by omega)

end Fields

/-- Settles O46: the take makes the loader busy, the completion stores the segment on the masked heads, and each table's entries are
read byte by byte. -/
theorem writeTableStoresSegmentAtCompletion : Obligations.WriteTableStoresSegmentAtCompletion := by
  refine ⟨fun s p rest t takes masked table form fits => ?_, fun s p t released writing table => ?_, fun lifts seg n bytes => ?_⟩
  · exact exec_takeOf_of_masked (v := .writeTable) takes masked (ruleWriteTable_of_fits (s := afterTake rest s) table form fits)
  · have completed : exec .writeCompletion s = .next (writeCompletion s) :=
      congrArg Host.Outcome.next (whileReleased_of_released _ released)
    rw [writeCompletion_of_writing writing table] at completed
    have head (h : HeadId) := storeOnHeads_get (packetMask p) t (natAt p.body 2) (writtenSegment t p.body) s.heads h
    refine ⟨_, completed, fun h masked => ?_, fun h unmasked => ?_, ?_, ?_, ?_⟩
    · rw [answerPacket_heads, storedWrite, head, if_pos masked]
      refine ⟨?_, ?_, fun x => ?_, fun t' other => perTable_get_set_other _ _ other, rfl⟩
      · rw [perTable_get_set_same]
        rfl
      · rw [perTable_get_set_same]
        rfl
      · rw [perTable_get_set_same]
        exact mem_coverInsert _ _ _
    · rw [answerPacket_heads, storedWrite, head, if_neg (by simp [unmasked])]
    · rw [answerPacket_eq]
      rfl
    · rw [answerPacket_eq]
      rfl
    · show _ = (answerPacket p .done (writeBody p t (answerPacket p .done _ _)) s).answers
      rw [writeBody_answerPacket]
      exact answerPacket_answers_congr _ _ _ rfl rfl rfl
  · refine ⟨rfl, fun notHeader => ?_, ?_, ?_, ?_, ?_, ?_⟩
    · simp only [readSegment, if_neg notHeader, readPoint_entryBytes, intAt3_eq]
      rfl
    · simp only [readSegment, readBlend_entryBytes_plain, Bool.false_eq_true, if_false]
      rfl
    · simp only [readSegment, readBlend_entryBytes_lifted, if_true]
      rfl
    · simp only [readSegment, readValue_entryBytes]
      rfl
    · simp only [readSegment, readValue_entryBytes]
      rfl
    · simp only [readSegment, readTrim, intAt2_eq]
      rfl

end Sys2Proof.Proofs
end

section
/-! The initialization completion: the defaults it leaves, RESET-UNIT's DONE, and the take that ends it (R134, R180, R181, R187). -/

namespace Sys2Proof.Proofs

open Sys2Proof.Machine Sys2Proof.Safety Sys2Proof.Laws

/-- A unit at the end of its initialization, before the DONE of a RESET-UNIT (R180, R181). -/
def readyUnit (s : State) : State :=
  { s with
    heads := s.heads.mapHeads fun h head => { head with pairs := defaultPairs h }
    loader := { s.loader with state := .idle }
    control := { s.control with state := .ready, startUp := true } }

theorem finishInitialization_of_startUp {s : State} (notReset : ∀ q, s.loader.state ≠ .resetting q) :
    finishInitialization s = readyUnit s := by
  unfold finishInitialization
  split
  · rename_i q resetting
    exact absurd resetting (notReset q)
  · rfl

theorem finishInitialization_of_reset {s : State} {q : Packet} (resetting : s.loader.state = .resetting q) :
    finishInitialization s = answerPacket q .done (resetBody s) (readyUnit s) := by
  simp only [finishInitialization, resetting]
  rfl

/-- What an initialization leaves is ready for a take, the queue as it was. -/
theorem finishInitialization_ready (s : State) :
    (finishInitialization s).loader.state = .idle ∧ (finishInitialization s).control.state = .ready ∧
      (finishInitialization s).control.resetInput = s.control.resetInput ∧
      (finishInitialization s).intake.queue = s.intake.queue := by
  unfold finishInitialization
  split
  · rw [answerPacket_eq]
    exact ⟨rfl, rfl, rfl, rfl⟩
  · exact ⟨rfl, rfl, rfl, rfl⟩

/-- The take of the oldest packet is the command of its verb (R134). -/
theorem exec_takeCommand {s t : State} {p : Packet} (released : s.control.resetInput = false) (due : nextTake s = some (p, t)) :
    exec (takeCommand p) s = .next (takeOldest s) := by
  have whenReleased (f : State → State) : Host.Outcome.next (φ := Fault) (ρ := Refusal) (whileReleased f s) = .next (f s) :=
    congrArg _ (whileReleased_of_released f released)
  simp only [takeCommand, takeOldest, due]
  cases verbOf p.header.verb with
  | none => exact whenReleased _
  | some v => cases v <;> exact whenReleased _

theorem takeOldest_of_empty {s : State} (empty : s.intake.queue = []) : takeOldest s = s := by
  have noTake : nextTake s = none := by simp [nextTake, empty]
  simp only [takeOldest, noTake]

/-- The initialization completion ends with the take of the oldest packet, where one is queued (R181). -/
theorem exec_initializationCompletion {s : State} (released : s.control.resetInput = false)
    (initializing : s.control.state = .initializing) :
    (s.intake.queue = [] → exec .initializationCompletion s = .next (finishInitialization s)) ∧
      ∀ p rest, s.intake.queue = p :: rest →
        exec .initializationCompletion s = exec (takeCommand p) (finishInitialization s) := by
  have completed : exec .initializationCompletion s = .next (takeOldest (finishInitialization s)) := by
    show Host.Outcome.next (whileReleased initializationCompletion s) = _
    rw [whileReleased_of_released _ released, initializationCompletion, if_pos initializing]
  obtain ⟨idle, ready, reset, queue⟩ := finishInitialization_ready s
  rw [completed]
  refine ⟨fun empty => ?_, fun p rest queued => ?_⟩
  · rw [takeOldest_of_empty (queue.trans empty)]
  · rw [exec_takeCommand (reset.trans released) (nextTake_of_due idle ready (queue.trans queued))]

/-- The body of RESET-UNIT's DONE, byte by byte (R187, R198). -/
theorem resetBody_eq (s : State) :
    resetBody s =
      [s.filter.hop.getD 0xFF#8, byteOf (s.health.errors / 256), byteOf s.health.errors,
        (match confinement s with | .active => 0#8 | .reduced => 1#8 | .mute => 2#8),
        if s.fault.entry = none then 0#8 else 1#8, (match s.fault.guard with | .strict => 0#8 | .lenient => 1#8)] := by
  have hop : hopByte s.filter.hop = s.filter.hop.getD 0xFF#8 := by cases s.filter.hop <;> rfl
  have state : byteOf (confinementCode (confinement s)) =
      match confinement s with | .active => 0#8 | .reduced => 1#8 | .mute => 2#8 := by cases confinement s <;> rfl
  have guard : byteOf (guardModeCode s.fault.guard) = match s.fault.guard with | .strict => 0#8 | .lenient => 1#8 := by
    cases s.fault.guard <;> rfl
  rw [resetBody, hop, state, boolByte_occupied, guard]
  rfl

/-- Settles O6: what initialization leaves, the take that follows, and the default of each table. -/
theorem initializationCompletionLeavesDefaults : Obligations.InitializationCompletionLeavesDefaults := by
  refine ⟨fun s released initializing => ⟨fun notReset => ?_, fun q resetting => ?_⟩, fun h => ?_,
    fun e => bankValue_defaultDecode, fun j => bankValue_defaultEncode, rfl⟩
  · have finished := exec_initializationCompletion released initializing
    rw [finishInitialization_of_startUp notReset] at finished
    exact finished
  · have finished := exec_initializationCompletion released initializing
    rw [finishInitialization_of_reset resetting, resetBody_eq] at finished
    exact finished
  · cases h <;> exact ⟨rfl, rfl, rfl, rfl, rfl, rfl⟩

end Sys2Proof.Proofs
end

section
/-! COMMIT: which heads are armed and which swap at once, its answers in order, and the reach audit (R37 to R39, R97, R98, R101). -/

namespace Sys2Proof.Proofs

open Sys2Proof.Machine Sys2Proof.Safety Sys2Proof.Laws

/-! ## Answers that depend on the answering alone -/

/-- Two states answer alike: the same answer side, confinement and hop (R150, R164). -/
def SameAnswering (s s' : State) : Prop := s.answers = s'.answers ∧ s.health = s'.health ∧ s.filter = s'.filter

theorem SameAnswering.generate {s s' : State} (same : SameAnswering s s') (verb tag : Byte) (wanted : Bool) (o : OutcomeCode)
    (head : Option HeadId) (body : List Byte) :
    SameAnswering (generate verb tag wanted o head body s) (generate verb tag wanted o head body s') := by
  obtain ⟨answers, health, filter⟩ := same
  refine ⟨?_, by rw [generate_health, generate_health, health], by rw [generate_filter, generate_filter, filter]⟩
  simp only [generate_eq, confinement, answers, health, filter]
  rfl

theorem SameAnswering.answerPacket {s s' : State} (same : SameAnswering s s') (p : Packet) (o : OutcomeCode) (body : List Byte) :
    SameAnswering (answerPacket p o body s) (answerPacket p o body s') := same.generate _ _ _ _ _ _

/-- Folds whose operations keep two states answering alike keep them so. -/
theorem SameAnswering.foldl {α : Type} {f g : State → α → State} (l : List α)
    (step : ∀ a ∈ l, ∀ x y, SameAnswering x y → SameAnswering (f x a) (g y a)) {s s' : State} (same : SameAnswering s s') :
    SameAnswering (l.foldl f s) (l.foldl g s') := by
  induction l generalizing s s' with
  | nil => exact same
  | cons a l ih =>
    exact ih (fun b member => step b (List.mem_cons_of_mem a member)) (step a List.mem_cons_self _ _ same)

/-! ## The take (R97, R98) -/

theorem commitOf_eq (p : Packet) :
    commitOf p =
      { tables := tableSetOf (byteAt p.body 0)
        frameTag := if byteAt p.body 1 = 0#8 then none else some (byteAt p.body 2)
        tag := p.header.tag, wanted := p.header.flags.getLsbD 7 } := by
  by_cases untagged : byteAt p.body 1 = 0#8 <;> simp [commitOf, answerWanted, untagged]

theorem mem_namedPairs {hs : List HeadId} {ts : TableSet} {q : HeadId × Table} :
    q ∈ namedPairs hs ts ↔ q.1 ∈ hs ∧ ts.get q.2 = true := by
  obtain ⟨h, t⟩ := q
  simp [namedPairs]

/-- A masked head's part of an accepted COMMIT: an untagged commit swaps on a parked head (R101). -/
def commitRun (p : Packet) (h : HeadId) (head : Head) : HeadRun :=
  if (packetMask p).get h && head.state == .parked then swapWhen dueAtParking (beginRun head) else beginRun head

/-- The state in which an accepted COMMIT has armed its heads and answered (R98). -/
def armedState (p : Packet) (s : State) : State := answerPacket p .armed (armedBody p s) { s with heads := armHeads p s.heads }

theorem ruleCommit_of_ready {p : Packet} {s : State} (tables : setTables (commitOf p).tables ≠ [])
    (guard : s.fault.guard = .lenient ∨ s.fault.entry = none) (unarmed : ∀ h ∈ packetHeads p, (s.heads.get h).armed = none)
    (ready : ∀ h ∈ packetHeads p, ∀ t, (commitOf p).tables.get t = true → shadowState s h t = .ready) :
    ruleCommit p s = .carryOut (runHeads (commitRun p) (armedState p s)) := by
  simp only [ruleCommit]
  rw [if_neg tables, if_neg (by simp [(guardPasses_iff _).2 guard]), if_neg, if_neg]
  · rfl
  · simp only [List.any_eq_true, mem_namedPairs, bne_iff_ne, not_exists, not_and, not_not]
    exact fun q ⟨masked, listed⟩ => ready q.1 masked q.2 listed
  · simp only [List.any_eq_true, not_exists, not_and]
    exact fun h masked => by simp [unarmed h masked]

/-! ## What becomes of each head -/

section Heads
variable {p : Packet} {s : State} {h : HeadId}

theorem armedState_heads (p : Packet) (s : State) : (armedState p s).heads = armHeads p s.heads := answerPacket_heads _ _ _ _

theorem armHeads_get (p : Packet) (hs : PerHead Head) (h : HeadId) :
    (armHeads p hs).get h = if (packetMask p).get h then { hs.get h with armed := some (commitOf p) } else hs.get h :=
  perHead_get_mapHeads _ _ _

/-- A masked parked head swaps an untagged commit at once. -/
theorem commitRun_of_swap (masked : (packetMask p).get h = true) (untagged : (commitOf p).frameTag = none)
    (parked : (s.heads.get h).state = .parked) :
    commitRun p h ((armHeads p s.heads).get h) =
      { head := swapHead (commitOf p) { s.heads.get h with armed := some (commitOf p) }, emitted := []
        swapped := some (commitOf p) } := by
  rw [armHeads_get, if_pos masked, commitRun, if_pos (by simp [masked, parked])]
  exact swapWhen_of_due (r := beginRun _) rfl ((dueAtParking_iff _).2 untagged)

/-- Any other head goes on as COMMIT's arming leaves it. -/
theorem commitRun_of_no_swap
    (noSwap : (packetMask p).get h = true → ¬((commitOf p).frameTag = none ∧ (s.heads.get h).state = .parked)) :
    commitRun p h ((armHeads p s.heads).get h) = beginRun ((armHeads p s.heads).get h) := by
  unfold commitRun
  split
  · rename_i due
    rw [armHeads_get] at due ⊢
    cases masked : (packetMask p).get h with
    | false => simp [masked] at due
    | true =>
      simp only [masked, if_true, Bool.true_and, beq_iff_eq] at due ⊢
      refine swapWhen_of_not_due fun c armed => Bool.eq_false_iff.2 fun isDue => noSwap masked ⟨?_, due⟩
      cases armed
      exact (dueAtParking_iff _).1 isDue
  · rfl

theorem commitRun_emitted (p : Packet) (h : HeadId) (head : Head) : (commitRun p h head).emitted = [] := by
  unfold commitRun
  split
  · exact swapWhen_emitted _ _
  · rfl

theorem commitRun_swapped :
    (commitRun p h ((armHeads p s.heads).get h)).swapped =
      if (packetMask p).get h = true ∧ (commitOf p).frameTag = none ∧ (s.heads.get h).state = .parked then some (commitOf p)
      else none := by
  split
  · rename_i swaps
    rw [commitRun_of_swap swaps.1 swaps.2.1 swaps.2.2]
  · rename_i stays
    rw [commitRun_of_no_swap fun masked swaps => stays ⟨masked, swaps⟩]
    rfl

end Heads

/-! ## The answers and the frame -/

/-- COMMIT's heads that swap at once answer after its ARMED, in ascending index (R98, R101, assumption 19). -/
theorem commit_answers (p : Packet) (s : State) {x : State} (same : SameAnswering (armedState p s) x) :
    (runHeads (commitRun p) (armedState p s)).answers =
      ((packetHeads p).foldl (fun x h => if (commitOf p).frameTag = none ∧ (s.heads.get h).state = .parked then
        generate 0x26#8 (commitOf p).tag (commitOf p).wanted .committed (some h) [] x else x) x).answers := by
  rw [packetHeads, maskHeads, List.foldl_filter, runHeads, answerSwaps]
  refine (SameAnswering.foldl (s := applyRuns _ (armedState p s)) allHeads (fun h _ x y same => ?_) same).1
  rw [perHead_get_ofFn, armedState_heads, commitRun_swapped]
  by_cases masked : (packetMask p).get h = true
  · by_cases swaps : (commitOf p).frameTag = none ∧ (s.heads.get h).state = .parked
    · simp only [masked, swaps, and_self, if_true]
      exact same.generate _ _ _ _ _ _
    · simp only [masked, swaps, true_and, if_true, if_false]
      exact same
  · rw [if_neg masked, if_neg fun swaps => masked swaps.1]
    exact same

/-- Nothing but the heads, the queue and the answers changes at a COMMIT: a swap at its take emits nothing. -/
theorem commit_frame (p : Packet) (s : State) :
    { runHeads (commitRun p) (armedState p s) with heads := s.heads, answers := s.answers } = s := by
  rw [runHeads_eq]
  simp only [commitRun_emitted, List.append_nil]
  rw [armedState, answerPacket_eq]
  rfl

/-! ## The reach audit (R38, R39) -/

/-- A mesh point is out of reach where the rows it needs are not all among the 256 up to its release line (R37, R38). -/
theorem outOfReach_iff (t : Timing) (bank : Bank) (i j : Nat) :
    outOfReach t bank i j = true ↔
      (bankPoint bank i j).sy / 16 < (releaseLine t (min (j * meshCell t) (t.height - 1)) : Int) - 255 ∨
        (releaseLine t (min (j * meshCell t) (t.height - 1)) : Int) < (bankPoint bank i j).sy / 16 ∨
        ((bankPoint bank i j).sy / 16 = releaseLine t (min (j * meshCell t) (t.height - 1)) ∧
          (bankPoint bank i j).sy % 16 ≠ 0) := by
  simp only [outOfReach, Bool.or_eq_true, decide_eq_true_eq]
  generalize (bankPoint bank i j).sy = sy
  split_ifs <;> omega

theorem reachAudit_eq_countP (t : Timing) (bank : Bank) :
    reachAudit t bank =
      ((List.range (meshDown t)).flatMap fun j => (List.range (meshAcross t)).map fun i => (i, j)).countP
        fun q => outOfReach t bank q.1 q.2 := by
  rw [reachAudit, List.countP_flatMap]
  congr 2
  funext j
  rw [Function.comp_apply, List.countP_map, List.countP_eq_length_filter]
  rfl

/-- Settles O50: arming and swap head by head, the answers in order, and the audit point by point. -/
theorem commitArmsEveryMaskedHead : Obligations.CommitArmsEveryMaskedHead := by
  refine ⟨fun s p rest takes masked => ?_, fun t bank => ⟨fun i j => ?_, reachAudit_eq_countP t bank⟩⟩
  · rw [← commitOf_eq]
    intro c tables guard unarmed ready
    have run := exec_takeOf_of_masked (v := .commit) takes masked
      (ruleCommit_of_ready (s := afterTake rest s) tables guard unarmed ready)
    have head (h : HeadId) : (runHeads (commitRun p) (armedState p (afterTake rest s))).heads.get h =
        (commitRun p h ((armHeads p s.heads).get h)).head := by
      rw [runHeads_eq, perHead_get_ofFn, armedState_heads]
      rfl
    refine ⟨_, run, fun h named stays => ?_, fun h named swaps => ?_, fun h other => ?_, ?_, ?_⟩
    · rw [head, commitRun_of_no_swap fun _ => stays, armHeads_get, if_pos named]
      rfl
    · rw [head, commitRun_of_swap named swaps.1 swaps.2]
    · rw [head, commitRun_of_no_swap fun named => by simp [other] at named, armHeads_get, if_neg (by simp [other])]
      rfl
    · exact commit_frame p (afterTake rest s)
    · refine commit_answers p (afterTake rest s) ?_
      exact SameAnswering.answerPacket (s := { afterTake rest s with heads := armHeads p s.heads }) (s' := s) ⟨rfl, rfl, rfl⟩ p
        .armed (armedBody p s)
  · rw [outOfReach_iff, releaseLine]
    push_cast
    rfl

end Sys2Proof.Proofs
end

section
/-! SET-TIMING: what its take installs, withdraws and answers, and its generation completion (R22, R50, R76, R77, R85). -/

namespace Sys2Proof.Proofs

open Sys2Proof.Machine Sys2Proof.Safety Sys2Proof.Laws

/-! ## Fields after a withdrawal of a commit and of jobs -/

@[simp] theorem removeJob_heads (h : HeadId) (s : State) (t : Table) : (removeJob h s t).heads = s.heads := by rw [removeJob_eq]

@[simp] theorem removeJob_jobs (h : HeadId) (s : State) (t : Table) :
    (removeJob h s t).copy.jobs = withoutJob s.copy.jobs h t := by rw [removeJob_eq]

@[simp] theorem removeJob_inFlight (h : HeadId) (s : State) (t : Table) :
    (removeJob h s t).copy.inFlight = s.copy.inFlight := by rw [removeJob_eq]

@[simp] theorem removeJob_loader (h : HeadId) (s : State) (t : Table) : (removeJob h s t).loader = s.loader := by rw [removeJob_eq]

@[simp] theorem withdraw_heads (h : HeadId) (s : State) :
    (withdraw h s).heads = s.heads.set h { s.heads.get h with armed := none } := by rw [withdraw_eq]

@[simp] theorem withdraw_copy (h : HeadId) (s : State) : (withdraw h s).copy = s.copy := by rw [withdraw_eq]

@[simp] theorem withdraw_loader (h : HeadId) (s : State) : (withdraw h s).loader = s.loader := by rw [withdraw_eq]

@[simp] theorem resumeCopy_heads (s : State) : (resumeCopy s).heads = s.heads := by rw [resumeCopy_eq]

@[simp] theorem resumeCopy_jobs (s : State) : (resumeCopy s).copy.jobs = s.copy.jobs := by rw [resumeCopy_eq]

@[simp] theorem resumeCopy_loader (s : State) : (resumeCopy s).loader = s.loader := by rw [resumeCopy_eq]

@[simp] theorem resumeCopy_answers (s : State) : (resumeCopy s).answers = s.answers := by rw [resumeCopy_eq]

/-- A copy in flight whose job is still listed goes on (R93). -/
theorem resumeCopy_inFlight_of_listed {s : State} {c : SegmentCopy} (inFlight : s.copy.inFlight = some c)
    (listed : hasJob s.copy.jobs c.head c.table = true) : (resumeCopy s).copy.inFlight = some c := by
  simp [resumeCopy, inFlight, listed]

/-- Where no copy in flight is listed any more, the engine begins the next one (R77, R93). -/
theorem resumeCopy_inFlight_of_unlisted {s : State}
    (unlisted : ∀ c, s.copy.inFlight = some c → hasJob s.copy.jobs c.head c.table = false) :
    (resumeCopy s).copy.inFlight = nextCopy s.heads s.copy.jobs := by
  unfold resumeCopy
  split
  · rename_i c inFlight
    simp [unlisted c inFlight]
  · rfl

theorem perHead_set_set {α : Type} (x : PerHead α) (h : HeadId) (a b : α) : (x.set h a).set h b = x.set h b := by
  refine perHead_ext fun k => ?_
  simp only [perHead_get_set]
  split <;> rfl

/-- The next copy depends on the banks of the heads alone. -/
theorem nextCopy_congr {hs hs' : PerHead Head} (pairs : ∀ k, (hs.get k).pairs = (hs'.get k).pairs) (jobs : List SyncJob) :
    nextCopy hs jobs = nextCopy hs' jobs := by
  unfold nextCopy
  split
  · rw [pairs]
  · rfl

/-- A job list without the jobs for two tables of a head. -/
theorem withoutJob_withoutJob (jobs : List SyncJob) (h : HeadId) (t u : Table) :
    withoutJob (withoutJob jobs h t) h u = jobs.filter fun j => !(j.head == h && (j.table == t || j.table == u)) := by
  rw [withoutJob, withoutJob, List.filter_filter]
  congr 1
  funext j
  cases j.head == h <;> cases j.table == t <;> cases j.table == u <;> rfl

/-- The jobs for one table of a head are the same once another table's are gone. -/
theorem jobsOf_withoutJob (jobs : List SyncJob) (h : HeadId) {t u : Table} (other : u ≠ t) :
    jobsOf (withoutJob jobs h t) h u = jobsOf jobs h u := by
  rw [jobsOf, withoutJob, List.filter_filter, jobsOf]
  refine List.filter_congr fun j _ => ?_
  by_cases table : j.table = u
  · simp [table, other]
  · simp [table]

/-! ## The take (R77) -/

section Take
variable (p : Packet) (h : HeadId) (s : State)

/-- A head as SET-TIMING's take leaves it: its new timing, its counts at 0, and no armed commit (R77). -/
def resetForTiming (p : Packet) (head : Head) : Head := { retimedHead p head with armed := none }

theorem beginGeneration_heads : (beginGeneration p h s).heads = s.heads.set h (resetForTiming p (s.heads.get h)) := by
  simp [beginGeneration_eq, retimed, perHead_set_set, resetForTiming]

theorem beginGeneration_jobs :
    (beginGeneration p h s).copy.jobs =
      s.copy.jobs.filter fun j => !(j.head == h && (j.table == .mesh || j.table == .blend)) := by
  simp only [beginGeneration_eq, resumeCopy_jobs, removeJob_jobs, withdraw_copy, withoutJob_withoutJob]
  rfl

theorem beginGeneration_loader : (beginGeneration p h s).loader = { s.loader with state := .generating p } := by
  simp [beginGeneration_eq, retimed]

/-- A retimed head keeps its banks (assumption 10). -/
theorem beginGeneration_pairs (k : HeadId) : ((beginGeneration p h s).heads.get k).pairs = (s.heads.get k).pairs := by
  rw [beginGeneration_heads, perHead_get_set]
  split
  · rename_i same
    rw [same]
    rfl
  · rfl

/-- What neither the heads, the copy engine, the loader nor the answers hold stays. -/
theorem beginGeneration_frame :
    { beginGeneration p h s with heads := s.heads, copy := s.copy, loader := s.loader, answers := s.answers } = s := by
  rw [beginGeneration_eq, resumeCopy_eq, removeJob_eq, removeJob_eq, withdraw_eq]
  rfl

/-- The answer of a head's armed commit, where it has one, when it is withdrawn (R104). -/
def answerArmed (h : HeadId) (armed : Option ArmedCommit) (x : State) : State :=
  match armed with
  | some c => generate 0x26#8 c.tag c.wanted .cancelled (some h) [] x
  | none => x

/-- The answers of the jobs for one table of a head when they are removed (R104). -/
def answerRemoved (h : HeadId) (t : Table) (jobs : List SyncJob) (x : State) : State :=
  (jobsOf jobs h t).foldl (fun y j => generate 0x25#8 j.tag j.wanted .cancelled (some h) [byteOf (tableCode t)] y) x

theorem withdraw_sameAnswering {s x : State} (same : SameAnswering s x) (h : HeadId) :
    SameAnswering (withdraw h s) (answerArmed h (s.heads.get h).armed x) := by
  unfold withdraw answerArmed
  cases (s.heads.get h).armed with
  | none => exact same
  | some c =>
    exact SameAnswering.generate (s := { s with heads := s.heads.set h { s.heads.get h with armed := none } }) same
      (verbCode .commit) _ _ _ _ _

theorem removeJob_sameAnswering {s x : State} (same : SameAnswering s x) (h : HeadId) (t : Table) :
    SameAnswering (removeJob h s t) (answerRemoved h t s.copy.jobs x) := by
  refine SameAnswering.foldl _ (fun j member y z same => ?_)
    (s := { s with copy := { s.copy with jobs := withoutJob s.copy.jobs h t } }) same
  obtain ⟨-, rfl, rfl⟩ := (mem_jobsOf _ _ _ _).1 member
  exact same.generate _ _ _ _ _ _

/-- The jobs of one table are answered alike once another table's are gone. -/
theorem answerRemoved_withoutJob (jobs : List SyncJob) (h : HeadId) {t u : Table} (other : u ≠ t) (x : State) :
    answerRemoved h u (withoutJob jobs h t) x = answerRemoved h u jobs x := by
  rw [answerRemoved, answerRemoved, jobsOf_withoutJob _ _ other]

/-- The answers of SET-TIMING's take: for the commit, then for the MESH jobs, then for the BLEND jobs (R77). -/
theorem beginGeneration_answers {x : State} (same : SameAnswering s x) :
    (beginGeneration p h s).answers =
      (answerRemoved h .blend s.copy.jobs (answerRemoved h .mesh s.copy.jobs
        (answerArmed h (s.heads.get h).armed x))).answers := by
  have armed : ((retimed p h s).heads.get h).armed = (s.heads.get h).armed := by
    rw [retimed, perHead_get_set_same]
    rfl
  have withdrawn := withdraw_sameAnswering (s := retimed p h s) (x := x) same h
  have removed := removeJob_sameAnswering (removeJob_sameAnswering withdrawn h .mesh) h .blend
  rw [armed, removeJob_jobs, withdraw_copy, answerRemoved_withoutJob _ _ (by decide)] at removed
  rw [beginGeneration_eq, resumeCopy_answers]
  exact removed.1

/-- What becomes of the copy in flight at SET-TIMING's take: it goes on while its job is listed (R77, R93). -/
theorem beginGeneration_inFlight_of_listed {c : SegmentCopy} (inFlight : s.copy.inFlight = some c)
    (listed : hasJob (beginGeneration p h s).copy.jobs c.head c.table = true) :
    (beginGeneration p h s).copy.inFlight = some c := by
  rw [beginGeneration_eq] at listed ⊢
  rw [resumeCopy_jobs] at listed
  exact resumeCopy_inFlight_of_listed (by simpa [retimed] using inFlight) listed

theorem beginGeneration_inFlight_of_unlisted
    (unlisted : ∀ c, s.copy.inFlight = some c → hasJob (beginGeneration p h s).copy.jobs c.head c.table = false) :
    (beginGeneration p h s).copy.inFlight = nextCopy s.heads (beginGeneration p h s).copy.jobs := by
  rw [← nextCopy_congr (beginGeneration_pairs p h s)]
  rw [beginGeneration_eq] at unlisted ⊢
  rw [resumeCopy_jobs] at unlisted ⊢
  rw [resumeCopy_heads]
  exact resumeCopy_inFlight_of_unlisted (by simpa [retimed] using unlisted)

/-- A wholly current shadow of a commit that SET-TIMING withdraws is READY from its take on (R77, R85). -/
theorem beginGeneration_shadow_ready {t : Table} (free : hasJob s.copy.jobs h t = false)
    (full : coverageFull ((s.heads.get h).pairs.get t) = true) : shadowState (beginGeneration p h s) h t = .ready := by
  have unarmed : armedLists ((beginGeneration p h s).heads.get h) t = false := by
    rw [beginGeneration_heads, perHead_get_set_same]
    rfl
  have still : hasJob (beginGeneration p h s).copy.jobs h t = false := by
    rw [Bool.eq_false_iff] at free ⊢
    refine mt (fun job => ?_) free
    obtain ⟨j, listed, named⟩ := (hasJob_eq_true _ _ _).1 job
    rw [beginGeneration_jobs] at listed
    exact (hasJob_eq_true _ _ _).2 ⟨j, List.mem_of_mem_filter listed, named⟩
  have current : coverageFull (((beginGeneration p h s).heads.get h).pairs.get t) = true := by
    rw [beginGeneration_pairs]
    exact full
  simp [shadowState, unarmed, still, current]

end Take

/-! ## The generation completion (R77) -/

theorem generationCompletion_of_generating {s : State} {p : Packet} {h : HeadId} (generating : s.loader.state = .generating p)
    (one : packetHeads p = [h]) :
    generationCompletion s =
      answerPacket p .done (timingBody h (s.heads.get h).timing)
        { s with
          heads := s.heads.set h { s.heads.get h with pairs := generatedPairs p (s.heads.get h) }
          loader := { s.loader with state := .idle } } := by
  simp only [generationCompletion, generating, one]

/-- Settles O45: the take field by field, and the completion as one state. -/
theorem setTimingInstallsTimingThenGenerates : Obligations.SetTimingInstallsTimingThenGenerates := by
  refine ⟨fun s p rest h takes one parked guard range mesh blend => ?_, fun s p h released generating one => ?_⟩
  · have carry := ruleSetTiming_of_fits (s := afterTake rest s) one parked guard range mesh blend
    refine ⟨beginGeneration p h (afterTake rest s), exec_takeOf_of_masked (v := .setTiming) takes (by simp [one]) carry,
      beginGeneration_heads p h (afterTake rest s), beginGeneration_jobs p h (afterTake rest s),
      fun c => beginGeneration_inFlight_of_listed p h (afterTake rest s),
      beginGeneration_inFlight_of_unlisted p h (afterTake rest s), beginGeneration_loader p h (afterTake rest s),
      beginGeneration_frame p h (afterTake rest s), beginGeneration_answers p h (afterTake rest s) ⟨rfl, rfl, rfl⟩,
      fun c t armed listed free full => ⟨?_, beginGeneration_shadow_ready p h (afterTake rest s) free full⟩⟩
    have lists : armedLists (s.heads.get h) t = true := by simp [armedLists, armed, listed]
    simp [shadowState, lists]
  · show Host.Outcome.next (whileReleased generationCompletion s) = _
    rw [whileReleased_of_released _ released, generationCompletion_of_generating generating one]
    rfl

end Sys2Proof.Proofs
end

section
/-! What the events of a head do to its timing, its armed commit and its banks: nothing, or the swap of that commit (R17, R99 to
R101). -/

namespace Sys2Proof.Proofs

open Sys2Proof.Machine Sys2Proof.Safety Sys2Proof.Laws

/-- From `h` to `h'`, of timing, armed commit and banks nothing has changed, or the armed commit has swapped. -/
def KeepsOrSwaps (h h' : Head) : Prop :=
  h'.timing = h.timing ∧
    ((h'.armed = h.armed ∧ h'.pairs = h.pairs) ∨
      ∃ c, h.armed = some c ∧ h'.armed = none ∧ h'.pairs = (swapHead c h).pairs)

/-- A head of which other fields have changed. -/
theorem keepsOrSwaps_of_kept {h h' : Head} (timing : h'.timing = h.timing) (armed : h'.armed = h.armed)
    (pairs : h'.pairs = h.pairs) : KeepsOrSwaps h h' := ⟨timing, .inl ⟨armed, pairs⟩⟩

theorem keepsOrSwaps_refl (h : Head) : KeepsOrSwaps h h := keepsOrSwaps_of_kept rfl rfl rfl

/-- A head swaps once at most: its commit is consumed. -/
theorem KeepsOrSwaps.trans {h h' h'' : Head} (first : KeepsOrSwaps h h') (second : KeepsOrSwaps h' h'') :
    KeepsOrSwaps h h'' := by
  obtain ⟨timing, change⟩ := first
  obtain ⟨timing', change'⟩ := second
  refine ⟨timing'.trans timing, ?_⟩
  obtain ⟨armed, pairs⟩ | ⟨c, armed, consumed, pairs⟩ := change
  · obtain ⟨armed', pairs'⟩ | ⟨c, armed', consumed, pairs'⟩ := change'
    · exact .inl ⟨armed'.trans armed, pairs'.trans pairs⟩
    · exact .inr ⟨c, armed.symm.trans armed', consumed, by rw [pairs', swapHead, swapHead, pairs]⟩
  · obtain ⟨armed', pairs'⟩ | ⟨c', armed', -⟩ := change'
    · exact .inr ⟨c, armed, armed'.trans consumed, pairs'.trans pairs⟩
    · cases consumed.symm.trans armed'

/-- The pair of each table is as it was, or has swapped under the armed commit that lists it. -/
theorem KeepsOrSwaps.pair {h h' : Head} (change : KeepsOrSwaps h h') (t : Table) :
    h'.pairs.get t = h.pairs.get t ∨ armedLists h t = true ∧ h'.pairs.get t = swapPair (h.pairs.get t) := by
  obtain ⟨-, ⟨-, pairs⟩ | ⟨c, armed, -, pairs⟩⟩ := change
  · exact .inl (by rw [pairs])
  · rw [pairs, swapHead_pair]
    split
    · rename_i listed
      exact .inr ⟨by simpa [armedLists, armed] using listed, rfl⟩
    · exact .inl rfl

/-! ## The parts of an event -/

theorem swapWhen_keepsOrSwaps (due : ArmedCommit → Bool) (r : HeadRun) : KeepsOrSwaps r.head (swapWhen due r).head := by
  obtain ⟨same, -⟩ | ⟨c, armed, -, swapped⟩ := swapWhen_cases due r
  · rw [same]
    exact keepsOrSwaps_refl _
  · rw [swapped]
    exact ⟨rfl, .inr ⟨c, armed, rfl, rfl⟩⟩

theorem headFrameStart_keepsOrSwaps (frame : Option Byte) (r : HeadRun) :
    KeepsOrSwaps r.head (headFrameStart frame r).head :=
  swapWhen_keepsOrSwaps (dueAtFrame frame) { r with head := latchMisses r.head }

theorem park_keepsOrSwaps (r : HeadRun) : KeepsOrSwaps r.head (park r).head :=
  swapWhen_keepsOrSwaps dueAtParking { r with head := parkedHead r.head }

/-- Releasing lines leaves timing, commit and banks as they are. -/
theorem Released.keepsOrSwaps {h h' : Head} (released : Released h h') : KeepsOrSwaps h h' := by
  rw [released.kept]
  exact keepsOrSwaps_of_kept rfl rfl rfl

theorem endFrame_keepsOrSwaps (view : View) (asFill : Bool) (h : Head) :
    KeepsOrSwaps h (endFrame view asFill (beginRun h)).head := (endFrame_released view asFill (beginRun h)).keepsOrSwaps

/-! ## The events -/

theorem takeFrameStart_keepsOrSwaps (view : View) (regain : Bool) (frame : Byte) (h : Head) :
    KeepsOrSwaps h (takeFrameStart view regain frame h).head := by
  unfold takeFrameStart
  split
  case h_1 parked => exact swapWhen_keepsOrSwaps _ (beginRun h)
  case h_2 priming => exact headFrameStart_keepsOrSwaps _ (beginRun { h with state := .run })
  case h_3 fill => exact headFrameStart_keepsOrSwaps _ (beginRun { h with state := .run, fillTimer := none })
  case h_4 run =>
    have ended := endFrame_keepsOrSwaps view regain h
    dsimp only
    split
    · exact (ended.trans (park_keepsOrSwaps _)).trans (swapWhen_keepsOrSwaps _ _)
    · exact ended.trans (headFrameStart_keepsOrSwaps _ _)

theorem takeLine_keepsOrSwaps (view : View) (n : Nat) (h : Head) : KeepsOrSwaps h (takeLine view n h).head := by
  by_cases run : h.state = .run
  · have released := (formLines_released view (r := beginRun h) (dueLines_length_le view n h)).keepsOrSwaps
    rw [takeLine_of_run view n run]
    split
    · exact released.trans (park_keepsOrSwaps _)
    · exact released
  · rw [takeLine_of_idle view n run]
    exact keepsOrSwaps_refl h

theorem takeAbsence_keepsOrSwaps (view : View) (h : Head) : KeepsOrSwaps h (takeAbsence view h).head := by
  unfold takeAbsence
  split
  case h_1 parked => exact keepsOrSwaps_refl h
  case h_2 fill => exact keepsOrSwaps_refl h
  case h_3 priming => exact keepsOrSwaps_of_kept rfl rfl rfl
  case h_4 run =>
    have ended := endFrame_keepsOrSwaps view true h
    dsimp only
    split
    · exact ended.trans (park_keepsOrSwaps _)
    · exact ended.trans (keepsOrSwaps_of_kept rfl rfl rfl)

theorem takeFillTimer_keepsOrSwaps (h : Head) : KeepsOrSwaps h (takeFillTimer h).head :=
  headFrameStart_keepsOrSwaps none (beginRun h)

theorem takeStop_keepsOrSwaps (h : Head) : KeepsOrSwaps h (takeStop h).head := by
  unfold takeStop
  split
  case h_1 parked => exact keepsOrSwaps_refl h
  case h_2 priming => exact park_keepsOrSwaps (beginRun h)
  case h_3 fill => exact park_keepsOrSwaps (beginRun h)
  case h_4 run =>
    split_ifs
    · exact keepsOrSwaps_refl h
    · exact keepsOrSwaps_of_kept rfl rfl rfl
    · exact park_keepsOrSwaps (beginRun h)

theorem startHead_keepsOrSwaps (locked : Bool) (h : Head) : KeepsOrSwaps h (startHead locked h) := by
  cases locked <;> exact keepsOrSwaps_of_kept rfl rfl rfl

end Sys2Proof.Proofs
end

section
/-! The shapes of pairs and the work of the copy engine, operation by operation (R82 to R84, R91, R93, R94, R100). -/

namespace Sys2Proof.Proofs

open Sys2Proof.Machine Sys2Proof.Safety Sys2Proof.Laws

/-! ## The shapes of pairs -/

/-- Both banks of a pair have the shape of their table under a timing, and its coverage is a set of segments of that shape (R83,
R84). -/
def PairShaped (timing : Timing) (t : Table) (p : Pair) : Prop :=
  bankShaped timing t p.live ∧ bankShaped timing t p.shadow ∧ p.coverage.Pairwise (· < ·) ∧
    ∀ seg ∈ p.coverage, seg < segmentCount timing t

theorem banksShaped_iff (s : State) :
    BanksShaped s ↔
      ∀ h t, ¬beingRewritten s h t → PairShaped (s.heads.get h).timing t ((s.heads.get h).pairs.get t) := Iff.rfl

/-- A coverage stays in ascending order without repeats (R84). -/
theorem coverInsert_pairwise (seg : Nat) {l : List Nat} (ascending : l.Pairwise (· < ·)) :
    (coverInsert seg l).Pairwise (· < ·) := by
  induction l with
  | nil => exact List.pairwise_singleton _ _
  | cons x xs ih =>
    obtain ⟨first, rest⟩ := List.pairwise_cons.1 ascending
    unfold coverInsert
    split_ifs with below same
    · refine List.pairwise_cons.2 ⟨fun y member => ?_, ascending⟩
      obtain rfl | later := List.mem_cons.1 member
      · exact below
      · exact below.trans (first y later)
    · exact ascending
    · refine List.pairwise_cons.2 ⟨fun y member => ?_, ih rest⟩
      obtain rfl | later := (mem_coverInsert seg y xs).1 member
      · omega
      · exact first y later

section Pairs
variable {timing : Timing} {t : Table}

theorem freshPair_shaped {bank : Bank} (shaped : bankShaped timing t bank) :
    PairShaped timing t (freshPair bank (segmentCount timing t)) :=
  ⟨shaped, shaped, List.pairwise_lt_range, fun _ => List.mem_range.1⟩

theorem defaultPairs_shaped (h : HeadId) (t : Table) : PairShaped (defaultTiming h) t ((defaultPairs h).get t) := by
  rw [defaultPairs, perTable_get_ofFn]
  exact freshPair_shaped (defaultBank_shaped h t)

variable {p : Pair} (shaped : PairShaped timing t p)
include shaped

theorem swapPair_shaped : PairShaped timing t (swapPair p) := by
  obtain ⟨live, shadow, -, -⟩ := shaped
  exact ⟨shadow, live, List.Pairwise.nil, by simp [swapPair]⟩

/-- Storing a segment of the table's shape, within the bank, keeps the pair's shape (R84). -/
theorem storeSegment_shaped {seg : Nat} {data : Segment} (inBank : seg < segmentCount timing t)
    (fits : segmentShaped timing t seg data) : PairShaped timing t (storeSegment seg data p) := by
  obtain ⟨live, shadow, ascending, within⟩ := shaped
  refine ⟨live, bankShaped_set shadow fits, coverInsert_pairwise seg ascending, fun x member => ?_⟩
  obtain rfl | covered := (mem_coverInsert seg x p.coverage).1 member
  · exact inBank
  · exact within x covered

/-- What a copy stores has the shape that the live bank gives it (R93). -/
theorem copySegment_shaped (seg : Nat) : PairShaped timing t (copySegment seg p) := by
  unfold copySegment
  split
  · rename_i data stored
    have ⟨⟨count, fits⟩, _⟩ := shaped
    exact storeSegment_shaped shaped (by rw [← count]; exact (List.getElem?_eq_some_iff.1 stored).1) (fits seg data stored)
  · exact shaped

end Pairs

/-- The shapes of DECODE, ENCODE and TRIM are the same under every timing (R43, R45, R56). -/
theorem segmentShaped_retime {timing : Timing} (timing' : Timing) {t : Table} (mesh : t ≠ .mesh) (blend : t ≠ .blend) {i : Nat}
    {x : Segment} (shaped : segmentShaped timing t i x) : segmentShaped timing' t i x := by
  cases x with
  | header h => exact shaped
  | points row => exact absurd shaped.1 mesh
  | blends row => exact absurd shaped.1 blend
  | values entries =>
    obtain ⟨rfl | rfl, count⟩ := shaped
    · exact ⟨.inl rfl, count⟩
    · exact ⟨.inr rfl, count⟩
  | trim x => exact shaped

theorem segmentCount_retime (timing timing' : Timing) {t : Table} (mesh : t ≠ .mesh) (blend : t ≠ .blend) :
    segmentCount timing t = segmentCount timing' t := by
  cases t with
  | mesh => exact absurd rfl mesh
  | blend => exact absurd rfl blend
  | decode => rfl
  | encode => rfl
  | trim => rfl

theorem pairShaped_retime {timing : Timing} (timing' : Timing) {t : Table} (mesh : t ≠ .mesh) (blend : t ≠ .blend) {p : Pair}
    (shaped : PairShaped timing t p) : PairShaped timing' t p := by
  obtain ⟨⟨live, fits⟩, ⟨shadow, fits'⟩, ascending, within⟩ := shaped
  rw [segmentCount_retime timing timing' mesh blend] at live shadow within
  exact ⟨⟨live, fun i x stored => segmentShaped_retime timing' mesh blend (fits i x stored)⟩,
    ⟨shadow, fun i x stored => segmentShaped_retime timing' mesh blend (fits' i x stored)⟩, ascending, within⟩

/-! ## The next copy -/

/-- Every job's shadow lacks a segment (R94). -/
def JobsLack (heads : PerHead Head) (jobs : List SyncJob) : Prop :=
  ∀ j ∈ jobs, coverageFull ((heads.get j.head).pairs.get j.table) = false

/-- A shadow that lacks a segment has a lowest one (R93). -/
theorem lowestMissing_of_lacking {p : Pair} (lacks : coverageFull p = false) : ∃ seg, lowestMissing p = some seg := by
  cases lowest : lowestMissing p with
  | some seg => exact ⟨seg, rfl⟩
  | none =>
    have full : coverageFull p = true := by simpa [lowestMissing, coverageFull] using lowest
    cases lacks.symm.trans full

theorem nextCopy_cons (heads : PerHead Head) (j : SyncJob) (rest : List SyncJob) :
    nextCopy heads (j :: rest) =
      (lowestMissing ((heads.get j.head).pairs.get j.table)).map fun seg =>
        { head := j.head, table := j.table, segment := seg } := rfl

/-- The copy engine is sound where its copy in flight is the next copy, and every job's shadow lacks a segment. -/
theorem copySound_iff (s : State) :
    CopySound s ↔ s.copy.inFlight = nextCopy s.heads s.copy.jobs ∧ JobsLack s.heads s.copy.jobs := by
  unfold CopySound
  constructor
  · rintro ⟨idle, working, lacks⟩
    refine ⟨?_, lacks⟩
    cases jobs : s.copy.jobs with
    | nil => exact idle jobs
    | cons j rest =>
      obtain ⟨seg, inFlight, lowest⟩ := working j rest jobs
      rw [inFlight, nextCopy_cons, lowest]
      rfl
  · rintro ⟨inFlight, lacks⟩
    refine ⟨fun none => by rw [inFlight, none]; rfl, fun j rest jobs => ?_, lacks⟩
    obtain ⟨seg, lowest⟩ := lowestMissing_of_lacking (lacks j (jobs ▸ List.mem_cons_self))
    refine ⟨seg, ?_, lowest⟩
    rw [inFlight, jobs, nextCopy_cons, lowest]
    rfl

/-- Where the pairs that have jobs are as they were, a sound copy engine stays sound. -/
theorem copySound_of_samePairs {s t : State} (sound : CopySound s) (copy : t.copy = s.copy)
    (pairs : ∀ h u, hasJob s.copy.jobs h u = true → (t.heads.get h).pairs.get u = (s.heads.get h).pairs.get u) : CopySound t := by
  obtain ⟨idle, working, lacks⟩ := sound
  have ofJob {j : SyncJob} (listed : j ∈ s.copy.jobs) := pairs j.head j.table ((hasJob_eq_true _ _ _).2 ⟨j, listed, rfl, rfl⟩)
  unfold CopySound
  rw [copy]
  refine ⟨idle, fun j rest jobs => ?_, fun j listed => ?_⟩
  · rw [ofJob (jobs ▸ List.mem_cons_self)]
    exact working j rest jobs
  · rw [ofJob listed]
    exact lacks j listed

/-- A copy goes on when jobs are added behind the oldest (R92, R93). -/
theorem nextCopy_append {heads : PerHead Head} {jobs : List SyncJob} {c : SegmentCopy} (next : nextCopy heads jobs = some c)
    (more : List SyncJob) : nextCopy heads (jobs ++ more) = some c := by
  cases jobs with
  | nil => cases next
  | cons j rest => exact next

/-- A copy goes on when jobs are dropped pair by pair and its own pair still has one (R77, R93, R104). -/
theorem nextCopy_filter {heads : PerHead Head} {jobs : List SyncJob} {c : SegmentCopy} (next : nextCopy heads jobs = some c)
    (keep : HeadId → Table → Bool)
    (listed : hasJob (jobs.filter fun j => keep j.head j.table) c.head c.table = true) :
    nextCopy heads (jobs.filter fun j => keep j.head j.table) = some c := by
  obtain ⟨j, rest, rfl, head, table, -⟩ := nextCopy_eq_some next
  obtain ⟨k, kept, ofHead, ofTable⟩ := (hasJob_eq_true _ _ _).1 listed
  have keeps : keep j.head j.table = true := by
    rw [← head, ← table, ← ofHead, ← ofTable]
    exact (List.mem_filter.1 kept).2
  rw [List.filter_cons, if_pos keeps]
  exact next

/-- A copy engine that resumes is sound, where every job's shadow lacks a segment and a copy whose job is still listed is the next
one (R93). -/
theorem resumeCopy_sound {s : State} (lacks : JobsLack s.heads s.copy.jobs)
    (goesOn : ∀ c, s.copy.inFlight = some c → hasJob s.copy.jobs c.head c.table = true →
      nextCopy s.heads s.copy.jobs = some c) : CopySound (resumeCopy s) := by
  rw [copySound_iff, resumeCopy_jobs, resumeCopy_heads]
  refine ⟨?_, lacks⟩
  by_cases listed : ∃ c, s.copy.inFlight = some c ∧ hasJob s.copy.jobs c.head c.table = true
  · obtain ⟨c, inFlight, job⟩ := listed
    rw [resumeCopy_inFlight_of_listed inFlight job, goesOn c inFlight job]
  · refine resumeCopy_inFlight_of_unlisted fun c inFlight => Bool.eq_false_iff.2 fun job => ?_
    exact listed ⟨c, inFlight, job⟩

/-! ## Jobs dropped -/

/-- From `s` to `t`, jobs have been dropped pair by pair, and of what the tables' invariants read nothing else has changed. -/
structure JobsDropped (s t : State) : Prop where
  inFlight : t.copy.inFlight = s.copy.inFlight
  jobs : ∃ keep : HeadId → Table → Bool, t.copy.jobs = s.copy.jobs.filter fun j => keep j.head j.table
  loader : t.loader.state = s.loader.state
  unit : t.control.state = s.control.state
  timing : ∀ k, (t.heads.get k).timing = (s.heads.get k).timing
  pairs : ∀ k, (t.heads.get k).pairs = (s.heads.get k).pairs

theorem jobsDropped_refl (s : State) : JobsDropped s s :=
  ⟨rfl, ⟨fun _ _ => true, by simp⟩, rfl, rfl, fun _ => rfl, fun _ => rfl⟩

theorem JobsDropped.trans {s t u : State} (first : JobsDropped s t) (second : JobsDropped t u) : JobsDropped s u := by
  obtain ⟨keep, jobs⟩ := first.jobs
  obtain ⟨keep', jobs'⟩ := second.jobs
  exact ⟨second.inFlight.trans first.inFlight, ⟨fun h t => keep' h t && keep h t, by rw [jobs', jobs, List.filter_filter]⟩,
    second.loader.trans first.loader, second.unit.trans first.unit, fun k => (second.timing k).trans (first.timing k),
    fun k => (second.pairs k).trans (first.pairs k)⟩

/-- A fold of operations that drop jobs drops jobs. -/
theorem foldl_jobsDropped {α : Type} (l : List α) (f : State → α → State) (drops : ∀ s a, JobsDropped s (f s a)) (s : State) :
    JobsDropped s (l.foldl f s) := by
  induction l generalizing s with
  | nil => exact jobsDropped_refl s
  | cons a l ih => exact (drops s a).trans (ih _)

theorem removeJob_jobsDropped (h : HeadId) (s : State) (t : Table) : JobsDropped s (removeJob h s t) := by
  rw [removeJob_eq]
  exact ⟨rfl, ⟨fun k u => !(k == h && u == t), rfl⟩, rfl, rfl, fun _ => rfl, fun _ => rfl⟩

theorem withdraw_jobsDropped (h : HeadId) (s : State) : JobsDropped s (withdraw h s) := by
  have same : ∀ k, (((withdraw h s).heads.get k).timing, ((withdraw h s).heads.get k).pairs) =
      ((s.heads.get k).timing, (s.heads.get k).pairs) := by
    intro k
    rw [withdraw_heads, perHead_get_set]
    split
    · rename_i same
      rw [same]
    · rfl
  exact ⟨by rw [withdraw_copy], ⟨fun _ _ => true, by simp⟩, by rw [withdraw_loader], by rw [withdraw_eq],
    fun k => congrArg Prod.fst (same k), fun k => congrArg Prod.snd (same k)⟩

theorem cancelHead_jobsDropped (ts : TableSet) (s : State) (h : HeadId) : JobsDropped s (cancelHead ts s h) := by
  refine JobsDropped.trans ?_ (foldl_jobsDropped _ _ (removeJob_jobsDropped h) _)
  split
  · exact withdraw_jobsDropped h s
  · exact jobsDropped_refl s

/-- After jobs are dropped, the engine resumes soundly (R77, R93, R104). -/
theorem JobsDropped.resume_sound {s t : State} (dropped : JobsDropped s t) (sound : CopySound s) : CopySound (resumeCopy t) := by
  obtain ⟨inFlight, lacks⟩ := (copySound_iff s).1 sound
  obtain ⟨keep, jobs⟩ := dropped.jobs
  refine resumeCopy_sound (fun j listed => ?_) fun c flying listed => ?_
  · rw [jobs] at listed
    rw [dropped.pairs]
    exact lacks j (List.mem_of_mem_filter listed)
  · rw [dropped.inFlight, inFlight] at flying
    rw [jobs] at listed
    rw [nextCopy_congr dropped.pairs, jobs]
    exact nextCopy_filter flying keep listed

end Sys2Proof.Proofs
end

section
/-! The invariants of the tables, of the copy engine and of the loader's verb: the events that keep them and the completions (R77, R82
to R84, R87, R91, R93, R133, R180, R183). -/

namespace Sys2Proof.Proofs

open Sys2Proof.Machine Sys2Proof.Safety Sys2Proof.Laws

/-- The copy engine, the shapes of the banks and the loader's verb in execution agree. -/
def TablesSound (s : State) : Prop := LoaderSound s ∧ CopySound s ∧ BanksShaped s

/-- No table that an armed commit lists has a sync job (R85). -/
def ArmedApart (s : State) : Prop := ∀ h t, armedLists (s.heads.get h) t = true → hasJob s.copy.jobs h t = false

theorem armedApart_of_commitsSound {s : State} (sound : CommitsSound s) : ArmedApart s := fun h t armed => (sound.1 h t armed).2

/-! ## What the invariants read -/

/-- What the invariants of the tables read: the heads, the copy engine, the loader's condition and the unit state. -/
structure TableSide where
  heads : PerHead Head
  copy : CopyEngine
  loader : LoaderState
  unit : UnitState

/-- The table side of a state. -/
def tableSide (s : State) : TableSide :=
  { heads := s.heads, copy := s.copy, loader := s.loader.state, unit := s.control.state }

@[simp] theorem tableSide_answerPacket (p : Packet) (o : OutcomeCode) (body : List Byte) (s : State) :
    tableSide (answerPacket p o body s) = tableSide s := by
  rw [answerPacket_eq]
  rfl

@[simp] theorem tableSide_refuseTake (o : OutcomeCode) (p : Packet) (s : State) :
    tableSide (refuseTake o p s) = tableSide s := by
  rw [refuseTake_eq]
  rfl

@[simp] theorem tableSide_refuseForm (p : Packet) (s : State) : tableSide (refuseForm p s) = tableSide s :=
  tableSide_refuseTake _ _ _

@[simp] theorem tableSide_afterTake (rest : List Packet) (s : State) : tableSide (afterTake rest s) = tableSide s := rfl

@[simp] theorem tableSide_answerSwaps (order : List HeadId) (runs : PerHead HeadRun) (s : State) :
    tableSide (answerSwaps order runs s) = tableSide s := by
  rw [answerSwaps_eq]
  rfl

@[simp] theorem tableSide_queuePacket (p : Packet) (s : State) : tableSide (queuePacket p s) = tableSide s := by
  rw [queuePacket_eq]
  rfl

@[simp] theorem tableSide_checkPacket (bytes : List Byte) (s : State) : tableSide (checkPacket bytes s) = tableSide s := by
  unfold checkPacket
  split
  · dsimp only
    split
    · exact tableSide_queuePacket _ _
    · rfl
  · rfl

theorem tableSide_handToHeads (f : Head → HeadRun) (s : State) :
    tableSide (handToHeads f s) = { tableSide s with heads := .ofFn fun k => (f (s.heads.get k)).head } := by
  rw [handToHeads_eq]
  rfl

theorem tableSide_runHeads (f : HeadId → Head → HeadRun) (s : State) :
    tableSide (runHeads f s) = { tableSide s with heads := .ofFn fun k => (f k (s.heads.get k)).head } := by
  rw [runHeads_eq]
  rfl

@[simp] theorem tableSide_carrierUp (s : State) : tableSide (carrierUp s) = tableSide s := by
  unfold carrierUp
  split <;> rfl

@[simp] theorem tableSide_carrierLoss (broken : Option ItemPart) (s : State) :
    tableSide (carrierLoss broken s) = tableSide s := by
  unfold carrierLoss
  split <;> rfl

@[simp] theorem tableSide_releaseReset (carrier : Bool) (s : State) : tableSide (releaseReset carrier s) = tableSide s := by
  unfold releaseReset
  split
  · cases carrier with
    | false => rfl
    | true => exact tableSide_carrierUp _
  · rfl

@[simp] theorem tableSide_malformedMarker (bytes : List Byte) (s : State) :
    tableSide (malformedMarker bytes s) = tableSide s := by
  unfold malformedMarker
  split <;> rfl

@[simp] theorem tableSide_packetArrival (bytes : List Byte) (s : State) : tableSide (packetArrival bytes s) = tableSide s := by
  unfold packetArrival
  split
  · rfl
  · rfl
  · rfl
  · exact tableSide_checkPacket _ _

@[simp] theorem tableSide_completeSend (held arrived : Bool) (s : State) :
    tableSide (completeSend held arrived s) = tableSide s := by
  unfold completeSend
  split <;> rfl

@[simp] theorem tableSide_takeUnknown (s : State) : tableSide (takeUnknown s) = tableSide s :=
  takeUnknown_induction (P := fun t => tableSide t = tableSide s) rfl (by simp)

/-! ## Events that swap or do nothing -/

/-- From `s` to `t`, of what the tables' invariants read nothing has changed but pairs without a sync job, which have swapped. -/
structure FreePairsSwapped (s t : State) : Prop where
  loader : t.loader.state = s.loader.state
  unit : t.control.state = s.control.state
  copy : t.copy = s.copy
  timing : ∀ k, (t.heads.get k).timing = (s.heads.get k).timing
  pairs : ∀ k u, (t.heads.get k).pairs.get u = (s.heads.get k).pairs.get u ∨
    hasJob s.copy.jobs k u = false ∧ (t.heads.get k).pairs.get u = swapPair ((s.heads.get k).pairs.get u)

/-- The loader's verb stays sound while timings and loader stay and no job is added. -/
theorem loaderSound_of_fewerJobs {s t : State} (sound : LoaderSound s) (loader : t.loader.state = s.loader.state)
    (unit : t.control.state = s.control.state) (timing : ∀ k, (t.heads.get k).timing = (s.heads.get k).timing)
    (jobs : ∀ k u, hasJob s.copy.jobs k u = false → hasJob t.copy.jobs k u = false) : LoaderSound t := by
  obtain ⟨writing, generating, resetting, initializing⟩ := sound
  unfold LoaderSound
  simp only [loader, unit, timing]
  refine ⟨fun p busy => ?_, fun p busy => ?_, resetting, initializing⟩
  · obtain ⟨u, table, fits⟩ := writing p busy
    refine ⟨u, table, fun h masked => ?_⟩
    obtain ⟨segment, count, free⟩ := fits h masked
    exact ⟨segment, count, jobs h u free⟩
  · obtain ⟨h, one, mesh, blend⟩ := generating p busy
    exact ⟨h, one, jobs h .mesh mesh, jobs h .blend blend⟩

theorem beingRewritten_congr {s t : State} (loader : t.loader.state = s.loader.state) (h : HeadId) (u : Table) :
    beingRewritten t h u ↔ beingRewritten s h u := by
  unfold beingRewritten
  rw [loader]

theorem FreePairsSwapped.keeps {s t : State} (change : FreePairsSwapped s t) (sound : TablesSound s) : TablesSound t := by
  obtain ⟨loader, copy, banks⟩ := sound
  refine ⟨loaderSound_of_fewerJobs loader change.loader change.unit change.timing (by rw [change.copy]; exact fun _ _ => id),
    copySound_of_samePairs copy change.copy fun h u job => ?_, fun h u quiet => ?_⟩
  · obtain same | ⟨free, -⟩ := change.pairs h u
    · exact same
    · cases free.symm.trans job
  · rw [change.timing]
    have shaped := (banksShaped_iff s).1 banks h u (mt (beingRewritten_congr change.loader h u).2 quiet)
    obtain same | ⟨-, swapped⟩ := change.pairs h u
    · rw [same]
      exact shaped
    · rw [swapped]
      exact swapPair_shaped shaped

/-- Heads that do nothing or swap, with armed tables free of jobs. -/
theorem freePairsSwapped_of_heads {s t : State} {heads : PerHead Head} (apart : ArmedApart s)
    (side : tableSide t = { tableSide s with heads := heads }) (change : ∀ k, KeepsOrSwaps (s.heads.get k) (heads.get k)) :
    FreePairsSwapped s t := by
  have same : t.heads = heads := congrArg TableSide.heads side
  refine ⟨congrArg TableSide.loader side, congrArg TableSide.unit side, congrArg TableSide.copy side, fun k => ?_, fun k u => ?_⟩
  · rw [same]
    exact (change k).1
  · rw [same]
    obtain kept | ⟨armed, swapped⟩ := (change k).pair u
    · exact .inl kept
    · exact .inr ⟨apart k u armed, swapped⟩

/-- The invariants of the tables read the table side alone. -/
theorem TablesSound.congr {s t : State} (sound : TablesSound s) (side : tableSide t = tableSide s) : TablesSound t := by
  have heads : t.heads = s.heads := congrArg TableSide.heads side
  refine FreePairsSwapped.keeps ⟨congrArg TableSide.loader side, congrArg TableSide.unit side, congrArg TableSide.copy side,
    fun k => ?_, fun k u => .inl ?_⟩ sound
  · rw [heads]
  · rw [heads]

theorem ArmedApart.congr {s t : State} (apart : ArmedApart s) (side : tableSide t = tableSide s) : ArmedApart t := by
  have heads : t.heads = s.heads := congrArg TableSide.heads side
  have copy : t.copy = s.copy := congrArg TableSide.copy side
  unfold ArmedApart
  rw [heads, copy]
  exact apart

theorem handToHeads_tablesSound {f : Head → HeadRun} {s : State} (event : ∀ h, KeepsOrSwaps h (f h).head)
    (apart : ArmedApart s) (sound : TablesSound s) : TablesSound (handToHeads f s) :=
  (freePairsSwapped_of_heads apart (tableSide_handToHeads f s) fun k => by
    rw [perHead_get_ofFn]
    exact event _).keeps sound

theorem runHeads_tablesSound {f : HeadId → Head → HeadRun} {s : State} (event : ∀ k h, KeepsOrSwaps h (f k h).head)
    (apart : ArmedApart s) (sound : TablesSound s) : TablesSound (runHeads f s) :=
  (freePairsSwapped_of_heads apart (tableSide_runHeads f s) fun k => by
    rw [perHead_get_ofFn]
    exact event k _).keeps sound

section Events
variable {s : State} (apart : ArmedApart s) (sound : TablesSound s)
include apart sound

theorem frameStart_tablesSound (frame : Byte) (width height : Half) : TablesSound (frameStart frame width height s) := by
  unfold frameStart
  split
  · exact sound
  · exact handToHeads_tablesSound (takeFrameStart_keepsOrSwaps _ _ _) (apart.congr rfl) (sound.congr rfl)

theorem lineCompletion_tablesSound (pixels : List Pixel) : TablesSound (lineCompletion pixels s) := by
  unfold lineCompletion
  split
  · exact sound
  · dsimp only
    split
    · exact handToHeads_tablesSound (takeLine_keepsOrSwaps _ _) (apart.congr rfl) (sound.congr rfl)
    · exact sound.congr rfl

theorem absenceExpiry_tablesSound : TablesSound (absenceExpiry s) := by
  unfold absenceExpiry
  split
  · exact handToHeads_tablesSound (takeAbsence_keepsOrSwaps _) (apart.congr rfl) (sound.congr rfl)
  · exact sound

theorem fillTimerExpiry_tablesSound (h : HeadId) : TablesSound (fillTimerExpiry h s) := by
  unfold fillTimerExpiry
  split
  · refine runHeads_tablesSound (fun k head => ?_) apart sound
    split
    · exact takeFillTimer_keepsOrSwaps head
    · exact keepsOrSwaps_refl head
  · exact sound

end Events

/-! ## Completions -/

/-- An idle loader's verb is sound, where an initializing unit's heads have their default timings. -/
theorem loaderSound_of_idle {s : State} (idle : s.loader.state = .idle)
    (initializing : s.control.state = .initializing → ∀ h, (s.heads.get h).timing = defaultTiming h) : LoaderSound s := by
  refine ⟨fun p busy => ?_, fun p busy => ?_, fun p busy => ?_, initializing⟩
  all_goals cases idle.symm.trans busy

/-- An idle loader rewrites no banks. -/
theorem not_beingRewritten_of_idle {s : State} (idle : s.loader.state = .idle) (h : HeadId) (t : Table) :
    ¬beingRewritten s h t := by
  simp [beingRewritten, idle]

/-- A write leaves the timings (R87). -/
theorem storeOnHeads_timing (mask : HeadMask) (t : Table) (seg : Nat) (data : Segment) (hs : PerHead Head) (h : HeadId) :
    ((storeOnHeads mask t seg data hs).get h).timing = (hs.get h).timing := by
  rw [storeOnHeads_get]
  split <;> rfl

/-- The pair of one table of one head after a write (R87). -/
theorem storeOnHeads_pair (mask : HeadMask) (t : Table) (seg : Nat) (data : Segment) (hs : PerHead Head) (h : HeadId)
    (u : Table) :
    ((storeOnHeads mask t seg data hs).get h).pairs.get u =
      if mask.get h = true ∧ u = t then storeSegment seg data ((hs.get h).pairs.get t) else (hs.get h).pairs.get u := by
  rw [storeOnHeads_get]
  by_cases masked : mask.get h = true
  · rw [if_pos masked]
    by_cases same : u = t <;> simp [masked, same]
  · simp [masked]

/-- A write completes into pairs that have no job, with a segment of their shape (R86, R87). -/
theorem storedWrite_tablesSound {s : State} {p : Packet} {t : Table} (sound : TablesSound s) (busy : s.loader.state = .writing p)
    (fits : ∀ h ∈ packetHeads p, natAt p.body 2 < segmentCount (s.heads.get h).timing t ∧
      natAt p.body 3 = entryCount (s.heads.get h).timing t (natAt p.body 2) ∧ hasJob s.copy.jobs h t = false) :
    TablesSound (storedWrite p t s) := by
  obtain ⟨⟨-, -, -, initializing⟩, copy, banks⟩ := sound
  refine ⟨loaderSound_of_idle rfl fun init h => ?_, copySound_of_samePairs copy rfl fun h u job => ?_, fun h u _ => ?_⟩
  · rw [storedWrite, storeOnHeads_timing]
    exact initializing init h
  · rw [storedWrite, storeOnHeads_pair, if_neg]
    rintro ⟨masked, rfl⟩
    obtain ⟨-, -, free⟩ := fits h ((mem_packetHeads p h).2 masked)
    cases free.symm.trans job
  · have shaped := (banksShaped_iff s).1 banks h u (by simp [beingRewritten, busy])
    rw [storedWrite, storeOnHeads_timing, storeOnHeads_pair]
    split
    · rename_i stored
      obtain ⟨masked, rfl⟩ := stored
      obtain ⟨segment, count, -⟩ := fits h ((mem_packetHeads p h).2 masked)
      exact storeSegment_shaped shaped segment (readSegment_shaped _ _ _ _ _ _ count)
    · exact shaped

theorem writeCompletion_tablesSound {s : State} (sound : TablesSound s) : TablesSound (writeCompletion s) := by
  by_cases busy : ∃ p, s.loader.state = .writing p
  · obtain ⟨p, writing⟩ := busy
    obtain ⟨t, table, fits⟩ := sound.1.1 p writing
    rw [writeCompletion_of_writing writing table]
    exact (storedWrite_tablesSound sound writing fits).congr (tableSide_answerPacket _ _ _ _)
  · unfold writeCompletion
    split
    · rename_i p writing
      exact absurd ⟨p, writing⟩ busy
    · exact sound

/-- The pairs that a generation does not make are kept (R77). -/
theorem generatedPairs_get (p : Packet) (h : Head) {t : Table} (mesh : t ≠ .mesh) (blend : t ≠ .blend) :
    (generatedPairs p h).get t = h.pairs.get t := by
  cases t with
  | mesh => exact absurd rfl mesh
  | blend => exact absurd rfl blend
  | decode => rfl
  | encode => rfl
  | trim => rfl

/-- Generated pairs have the shape of the head's timing, where its other pairs have (R22, R50, R77). -/
theorem generatedPairs_shaped (p : Packet) (h : Head) (t : Table)
    (others : t ≠ .mesh → t ≠ .blend → PairShaped h.timing t (h.pairs.get t)) :
    PairShaped h.timing t ((generatedPairs p h).get t) := by
  by_cases mesh : t = .mesh
  · subst mesh
    exact freshPair_shaped (identityMesh_shaped _ _ _ _ _)
  · by_cases blend : t = .blend
    · subst blend
      exact freshPair_shaped (unityBlend_shaped _)
    · rw [generatedPairs_get p h mesh blend]
      exact others mesh blend

theorem generationCompletion_tablesSound {s : State} (sound : TablesSound s) : TablesSound (generationCompletion s) := by
  by_cases busy : ∃ p, s.loader.state = .generating p
  · obtain ⟨p, generating⟩ := busy
    obtain ⟨⟨-, accepted, -, initializing⟩, copy, banks⟩ := sound
    obtain ⟨h, one, mesh, blend⟩ := accepted p generating
    rw [generationCompletion_of_generating generating one]
    refine TablesSound.congr ?_ (tableSide_answerPacket _ _ _ _)
    refine ⟨loaderSound_of_idle rfl fun init k => ?_, copySound_of_samePairs copy rfl fun k u job => ?_, fun k u _ => ?_⟩
    · rw [perHead_get_set]
      split
      · rename_i same
        exact same ▸ initializing init k
      · exact initializing init k
    · rw [perHead_get_set]
      split
      · rename_i same
        subst same
        refine generatedPairs_get p _ ?_ ?_
        · rintro rfl
          cases mesh.symm.trans job
        · rintro rfl
          cases blend.symm.trans job
      · rfl
    · have shaped (quiet : k = h → u ≠ .mesh ∧ u ≠ .blend) := (banksShaped_iff s).1 banks k u (by
        simp only [beingRewritten, generating, reduceCtorEq, exists_false, LoaderState.generating.injEq, false_or, one,
          exists_eq_left', List.mem_singleton]
        rintro ⟨same, tables⟩
        obtain ⟨mesh, blend⟩ := quiet same
        exact tables.elim mesh blend)
      simp only [perHead_get_set]
      split
      · rename_i same
        subst same
        exact generatedPairs_shaped p (s.heads.get k) u fun mesh blend => shaped fun _ => ⟨mesh, blend⟩
      · rename_i other
        exact shaped fun same => absurd same other
  · unfold generationCompletion
    split
    · rename_i p generating
      exact absurd ⟨p, generating⟩ busy
    · exact sound

/-! ## The segment copy completion -/

/-- The pair of one table of one head after a change of one pair. -/
theorem changePair_pair (h : HeadId) (t : Table) (f : Pair → Pair) (s : State) (k : HeadId) (u : Table) :
    ((changePair h t f s).heads.get k).pairs.get u =
      if k = h ∧ u = t then f ((s.heads.get h).pairs.get t) else (s.heads.get k).pairs.get u := by
  simp only [changePair, perHead_get_set]
  by_cases same : k = h
  · subst same
    by_cases same : u = t <;> simp [same]
  · simp [same]

theorem changePair_timing (h : HeadId) (t : Table) (f : Pair → Pair) (s : State) (k : HeadId) :
    ((changePair h t f s).heads.get k).timing = (s.heads.get k).timing := by
  simp only [changePair, perHead_get_set]
  split
  · rename_i same
    rw [same]
  · rfl

/-- The jobs left by the completion of copy `c`: all of them, or, where it fills the coverage, all but those of its pair (R94). -/
def jobsAfterCopy (c : SegmentCopy) (s : State) : List SyncJob :=
  if coverageFull (copySegment c.segment ((s.heads.get c.head).pairs.get c.table)) then withoutJob s.copy.jobs c.head c.table
  else s.copy.jobs

/-- What a segment copy completion makes of the table side (R93, R94). -/
theorem tableSide_segmentCopyCompletion {s : State} {c : SegmentCopy} (inFlight : s.copy.inFlight = some c) :
    tableSide (segmentCopyCompletion s) =
      { tableSide s with
        heads := (changePair c.head c.table (copySegment c.segment) s).heads
        copy := { jobs := jobsAfterCopy c s
                  inFlight := nextCopy (changePair c.head c.table (copySegment c.segment) s).heads (jobsAfterCopy c s) } } := by
  have copied := changePair_pair c.head c.table (copySegment c.segment) s c.head c.table
  rw [if_pos ⟨rfl, rfl⟩] at copied
  simp only [segmentCopyCompletion, inFlight, copied, jobsAfterCopy]
  split
  · rw [foldl_answers_eq _ _ (by intro s a; simp only [answerJob]; rw [generate_eq])]
    rfl
  · rfl

theorem segmentCopyCompletion_tablesSound {s : State} (sound : TablesSound s) : TablesSound (segmentCopyCompletion s) := by
  cases inFlight : s.copy.inFlight with
  | none =>
    simp only [segmentCopyCompletion, inFlight]
    exact sound
  | some c =>
    obtain ⟨loader, copy, banks⟩ := sound
    obtain ⟨-, lacks⟩ := (copySound_iff s).1 copy
    have side := tableSide_segmentCopyCompletion inFlight
    have heads : (segmentCopyCompletion s).heads = _ := congrArg TableSide.heads side
    have engine : (segmentCopyCompletion s).copy = _ := congrArg TableSide.copy side
    have busy : (segmentCopyCompletion s).loader.state = s.loader.state := congrArg TableSide.loader side
    have unit : (segmentCopyCompletion s).control.state = s.control.state := congrArg TableSide.unit side
    refine ⟨loaderSound_of_fewerJobs loader busy unit (fun k => by rw [heads, changePair_timing]) fun k u free => ?_,
      (copySound_iff _).2 ⟨by rw [engine, heads], fun j listed => ?_⟩, fun k u quiet => ?_⟩
    · rw [engine, Bool.eq_false_iff]
      intro job
      obtain ⟨j, listed, named⟩ := (hasJob_eq_true _ _ _).1 job
      refine Bool.eq_false_iff.1 free ((hasJob_eq_true _ _ _).2 ⟨j, ?_, named⟩)
      revert listed
      simp only [jobsAfterCopy]
      split
      · exact fun listed => ((mem_withoutJob _ _ _ _).1 listed).1
      · exact id
    · rw [heads, changePair_pair]
      rw [engine] at listed
      simp only [jobsAfterCopy] at listed
      split at listed
      · obtain ⟨listed, other⟩ := (mem_withoutJob _ _ _ _).1 listed
        rw [if_neg other]
        exact lacks j listed
      · rename_i short
        split
        · exact Bool.eq_false_iff.2 short
        · exact lacks j listed
    · rw [heads, changePair_timing, changePair_pair]
      have shaped := (banksShaped_iff s).1 banks k u (mt (beingRewritten_congr busy k u).2 quiet)
      split
      · rename_i same
        obtain ⟨rfl, rfl⟩ := same
        exact copySegment_shaped shaped c.segment
      · exact shaped

/-! ## Initialization and power-on reset -/

/-- Heads with default timings and default pairs have the shapes of these timings. -/
theorem banksShaped_of_defaults {s : State} (timing : ∀ k, (s.heads.get k).timing = defaultTiming k)
    (pairs : ∀ k, (s.heads.get k).pairs = defaultPairs k) : BanksShaped s := by
  intro k u _
  rw [timing, pairs]
  exact defaultPairs_shaped k u

/-- A copy engine without jobs, and idle, is sound. -/
theorem copySound_of_idle {s : State} (idle : s.copy.inFlight = none) (jobs : s.copy.jobs = []) : CopySound s :=
  (copySound_iff s).2 ⟨by rw [idle, jobs]; rfl, by simp [JobsLack, jobs]⟩

theorem powerOn_tablesSound (broken : Option ItemPart) (s : State) : TablesSound (powerOn broken s) := by
  have heads (k : HeadId) : (powerOn broken s).heads.get k = resetHead k := perHead_get_ofFn resetHead k
  refine ⟨⟨nofun, nofun, nofun, fun _ k => ?_⟩,
    copySound_of_idle rfl rfl, banksShaped_of_defaults (fun k => ?_) fun k => ?_⟩
  all_goals
    rw [heads]
    rfl

/-- A unit that was quiet in its initialization is sound when it is ready, its armed tables without jobs (R180, R181). -/
theorem readyUnit_tablesSound {s : State} (initializing : s.control.state = .initializing) (quiet : QuietWhileInitializing s)
    (sound : TablesSound s) : TablesSound (readyUnit s) ∧ ArmedApart (readyUnit s) := by
  obtain ⟨⟨-, -, -, timing⟩, copy, -⟩ := sound
  obtain ⟨-, jobs⟩ := quiet initializing
  have heads (k : HeadId) : (readyUnit s).heads.get k = { s.heads.get k with pairs := defaultPairs k } :=
    perHead_get_mapHeads _ _ k
  refine ⟨⟨loaderSound_of_idle rfl nofun, copySound_of_idle (copy.1 jobs) jobs,
    banksShaped_of_defaults (fun k => ?_) fun k => ?_⟩, fun k u _ => ?_⟩
  · rw [heads]
    exact timing initializing k
  · rw [heads]
  · show hasJob s.copy.jobs k u = false
    rw [jobs]
    rfl

theorem tableSide_finishInitialization (s : State) : tableSide (finishInitialization s) = tableSide (readyUnit s) := by
  by_cases reset : ∃ q, s.loader.state = .resetting q
  · obtain ⟨q, resetting⟩ := reset
    rw [finishInitialization_of_reset resetting, tableSide_answerPacket]
  · rw [finishInitialization_of_startUp fun q resetting => reset ⟨q, resetting⟩]

end Sys2Proof.Proofs
end

section
/-! The invariants of the tables, of the copy engine and of the loader's verb at every take and every command (R43, R49, R77, R82 to
R84, R86, R91 to R93, R97, R104, R133, R184). -/

namespace Sys2Proof.Proofs

open Sys2Proof.Machine Sys2Proof.Safety Sys2Proof.Laws

/-! ## Shadow states -/

theorem shadowState_ready_iff (s : State) (h : HeadId) (t : Table) :
    shadowState s h t = .ready ↔
      armedLists (s.heads.get h) t = false ∧ hasJob s.copy.jobs h t = false ∧
        coverageFull ((s.heads.get h).pairs.get t) = true := by
  unfold shadowState
  dsimp only
  split_ifs <;> simp_all

/-- A shadow that is neither SYNCING nor ARMED has no armed commit and no job (R85). -/
theorem shadowOccupied_iff (s : State) (h : HeadId) (t : Table) :
    shadowOccupied s h t = false ↔ armedLists (s.heads.get h) t = false ∧ hasJob s.copy.jobs h t = false := by
  unfold shadowOccupied shadowState
  dsimp only
  split_ifs <;> simp_all

/-! ## Verbs that write, copy, arm, retime or reset -/

/-- Outside initialization, an idle loader's verb is sound. -/
theorem loaderSound_of_due {t : State} (idle : t.loader.state = .idle) (ready : t.control.state = .ready) : LoaderSound t :=
  loaderSound_of_idle idle fun initializing => by cases ready.symm.trans initializing

section Rules
variable {p : Packet} {s s' : State} (ready : s.control.state = .ready)

/-- A take of WRITE-TABLE is accepted where the write fits and its shadows have no job (R86). -/
theorem ruleWriteTable_inv (carry : ruleWriteTable p s = .carryOut s') :
    s' = { s with loader := { s.loader with state := .writing p } } ∧
      ∃ t, tableOf (natAt p.body 0) = some t ∧ ∀ h ∈ packetHeads p,
        natAt p.body 2 < segmentCount (s.heads.get h).timing t ∧
          natAt p.body 3 = entryCount (s.heads.get h).timing t (natAt p.body 2) ∧ hasJob s.copy.jobs h t = false := by
  simp only [ruleWriteTable] at carry
  split at carry
  · cases carry
  · rename_i t table
    split_ifs at carry with form segment count occupied
    cases carry
    simp only [List.any_eq_true, not_exists, not_and, decide_eq_true_eq, bne_iff_ne, not_not, not_le, Bool.not_eq_true]
      at segment count occupied
    exact ⟨rfl, t, table, fun h masked => ⟨segment h masked, count h masked,
      ((shadowOccupied_iff s h t).1 (occupied h masked)).2⟩⟩

include ready

theorem ruleWriteTable_tablesSound (sound : TablesSound s) (idle : s.loader.state = .idle)
    (carry : ruleWriteTable p s = .carryOut s') : TablesSound s' := by
  obtain ⟨rfl, t, table, fits⟩ := ruleWriteTable_inv carry
  obtain ⟨-, copy, banks⟩ := sound
  refine ⟨⟨fun q busy => ?_, nofun, nofun, fun initializing => ?_⟩, copy, fun h u _ => ?_⟩
  · cases busy
    exact ⟨t, table, fits⟩
  · cases ready.symm.trans initializing
  · exact banks h u (not_beingRewritten_of_idle idle h u)

theorem beginGeneration_tablesSound {h : HeadId} (sound : TablesSound s) (idle : s.loader.state = .idle)
    (one : packetHeads p = [h]) : TablesSound (beginGeneration p h s) := by
  obtain ⟨-, copy, banks⟩ := sound
  have generating : (beginGeneration p h s).loader.state = .generating p := congrArg Loader.state (beginGeneration_loader p h s)
  have unit : (beginGeneration p h s).control = s.control := by
    have frame := congrArg State.control (beginGeneration_frame p h s)
    exact frame
  have free (u : Table) (made : u = .mesh ∨ u = .blend) : hasJob (beginGeneration p h s).copy.jobs h u = false := by
    rw [beginGeneration_jobs, Bool.eq_false_iff]
    intro job
    obtain ⟨j, listed, rfl, rfl⟩ := (hasJob_eq_true _ _ _).1 job
    have other : j.table ≠ .mesh ∧ j.table ≠ .blend := by simpa using (List.mem_filter.1 listed).2
    exact made.elim other.1 other.2
  refine ⟨⟨fun q busy => ?_, fun q busy => ?_, fun q busy => ?_, fun initializing => ?_⟩, ?_, fun k u quiet => ?_⟩
  · cases generating.symm.trans busy
  · cases generating.symm.trans busy
    exact ⟨h, one, free .mesh (.inl rfl), free .blend (.inr rfl)⟩
  · cases generating.symm.trans busy
  · rw [unit, ready] at initializing
    cases initializing
  · have timed : CopySound (retimed p h s) := copySound_of_samePairs copy rfl fun k u _ => by
      rw [retimed, perHead_get_set]
      split
      · rename_i same
        rw [same]
        rfl
      · rfl
    rw [beginGeneration_eq]
    exact (((withdraw_jobsDropped h _).trans (removeJob_jobsDropped h _ .mesh)).trans
      (removeJob_jobsDropped h _ .blend)).resume_sound timed
  · have shaped := (banksShaped_iff s).1 banks k u (not_beingRewritten_of_idle idle k u)
    rw [beginGeneration_pairs, beginGeneration_heads, perHead_get_set]
    split
    · rename_i same
      have made : ¬(u = .mesh ∨ u = .blend) := fun made => quiet (.inr ⟨p, generating, by simp [one, same], made⟩)
      rw [not_or] at made
      exact pairShaped_retime _ made.1 made.2 shaped
    · exact shaped

theorem ruleSetTiming_tablesSound (sound : TablesSound s) (idle : s.loader.state = .idle)
    (carry : ruleSetTiming p s = .carryOut s') : TablesSound s' := by
  simp only [ruleSetTiming] at carry
  split at carry
  · rename_i h one
    split_ifs at carry
    cases carry
    exact beginGeneration_tablesSound ready sound idle one
  · cases carry

/-- A state in which jobs have been added behind those that stand, and the engine has resumed (R92, R93). -/
theorem resumeCopy_append_tablesSound {more : List SyncJob} (sound : TablesSound s) (idle : s.loader.state = .idle)
    (lacks : JobsLack s.heads more) :
    TablesSound (resumeCopy { s with copy := { s.copy with jobs := s.copy.jobs ++ more } }) := by
  obtain ⟨-, copy, banks⟩ := sound
  obtain ⟨inFlight, standing⟩ := (copySound_iff s).1 copy
  refine ⟨loaderSound_of_due (by rw [resumeCopy_loader]; exact idle) (by rw [resumeCopy_eq]; exact ready),
    resumeCopy_sound (fun j listed => ?_) fun c flying _ => ?_, ?_⟩
  · exact (List.mem_append.1 listed).elim (standing j) (lacks j)
  · exact nextCopy_append (inFlight.symm.trans flying) more
  · rw [resumeCopy_eq]
    exact banks

theorem ruleSync_tablesSound (sound : TablesSound s) (idle : s.loader.state = .idle)
    (carry : ruleSync p s = .carryOut s') : TablesSound s' := by
  simp only [ruleSync, doneWith] at carry
  split_ifs at carry with empty occupied
  cases carry
  refine TablesSound.congr (resumeCopy_append_tablesSound ready sound idle fun j listed => ?_) (tableSide_answerPacket _ _ _ _)
  obtain ⟨q, wanting, rfl⟩ := List.mem_map.1 listed
  obtain ⟨named, notReady⟩ := List.mem_filter.1 wanting
  have free : shadowOccupied s q.1 q.2 = false := by
    rw [Bool.eq_false_iff]
    exact fun busy => occupied (List.any_eq_true.2 ⟨q, named, busy⟩)
  obtain ⟨unarmed, noJob⟩ := (shadowOccupied_iff s q.1 q.2).1 free
  rw [bne_iff_ne, Ne, shadowState_ready_iff] at notReady
  exact Bool.eq_false_iff.2 fun full => notReady ⟨unarmed, noJob, full⟩

theorem ruleCancel_tablesSound (sound : TablesSound s) (idle : s.loader.state = .idle)
    (carry : ruleCancel p s = .carryOut s') : TablesSound s' := by
  have dropped := foldl_jobsDropped (packetHeads p) _ (cancelHead_jobsDropped (tableSetOf (byteAt p.body 0))) s
  obtain ⟨-, copy, banks⟩ := sound
  have cancelled : TablesSound (resumeCopy ((packetHeads p).foldl (cancelHead (tableSetOf (byteAt p.body 0))) s)) := by
    refine ⟨loaderSound_of_due ?_ ?_, dropped.resume_sound copy, fun k u _ => ?_⟩
    · rw [resumeCopy_loader, dropped.loader, idle]
    · rw [resumeCopy_eq]
      exact dropped.unit.trans ready
    · rw [resumeCopy_heads, dropped.timing, dropped.pairs]
      exact banks k u (not_beingRewritten_of_idle idle k u)
  simp only [ruleCancel] at carry
  split_ifs at carry
  all_goals
    cases carry
    exact cancelled.congr (tableSide_answerPacket _ _ _ _)

end Rules

/-- RESET-UNIT leaves the heads with default timings, no job, and the banks to the initialization (R180, R184). -/
theorem ruleResetUnit_tablesSound {p : Packet} {s s' : State} (carry : ruleResetUnit p s = .carryOut s') : TablesSound s' := by
  cases carry
  refine ⟨⟨nofun, nofun, fun _ _ => rfl, fun _ k => ?_⟩, copySound_of_idle rfl rfl, fun k u quiet => ?_⟩
  · exact congrArg Head.timing (perHead_get_mapHeads resetUnitHead s.heads k)
  · exact absurd (.inl ⟨p, rfl⟩) quiet

/-- COMMIT arms tables that are READY, which therefore have no job; some of them swap at once (R97, R98, R101). -/
theorem ruleCommit_tablesSound {p : Packet} {s s' : State} (apart : ArmedApart s) (sound : TablesSound s)
    (carry : ruleCommit p s = .carryOut s') : TablesSound s' := by
  simp only [ruleCommit] at carry
  split_ifs at carry with empty guard armed notReady
  cases carry
  have side : tableSide (armedState p s) = { tableSide s with heads := armHeads p s.heads } := tableSide_answerPacket _ _ _ _
  have heads : (armedState p s).heads = armHeads p s.heads := armedState_heads p s
  have copy : (armedState p s).copy = s.copy := congrArg TableSide.copy side
  have get (k : HeadId) : ∃ a, (armedState p s).heads.get k = { s.heads.get k with armed := a } := by
    rw [heads, armHeads_get]
    split
    · exact ⟨_, rfl⟩
    · exact ⟨(s.heads.get k).armed, rfl⟩
  have armedSound : TablesSound (armedState p s) := by
    refine FreePairsSwapped.keeps ⟨congrArg TableSide.loader side, congrArg TableSide.unit side, copy, fun k => ?_,
      fun k u => .inl ?_⟩ sound
    all_goals
      obtain ⟨a, same⟩ := get k
      rw [same]
  have armedApart : ArmedApart (armedState p s) := by
    intro k u listed
    rw [heads, armHeads_get] at listed
    rw [copy]
    split at listed
    · rename_i masked
      by_contra job
      refine notReady (List.any_eq_true.2 ⟨(k, u), mem_namedPairs.2 ⟨(mem_packetHeads p k).2 masked, listed⟩, ?_⟩)
      rw [bne_iff_ne, Ne, shadowState_ready_iff]
      exact fun ready => job ready.2.1
    · exact apart k u listed
  refine runHeads_tablesSound (fun k head => ?_) armedApart armedSound
  split
  · exact swapWhen_keepsOrSwaps _ (beginRun head)
  · exact keepsOrSwaps_refl head

/-- STOP's heads park, some with a swap (R79, R81). -/
theorem ruleStop_tablesSound {p : Packet} {s s' : State} (apart : ArmedApart s) (sound : TablesSound s)
    (carry : ruleStop p s = .carryOut s') : TablesSound s' := by
  simp only [ruleStop, Verdict.carryOut.injEq] at carry
  subst carry
  refine FreePairsSwapped.keeps (freePairsSwapped_of_heads (heads := .ofFn fun k => ((stopRuns p s).get k).head) apart ?_
    fun k => ?_) sound
  · split <;> simp only [tableSide_answerSwaps, tableSide_answerPacket] <;> rfl
  · rw [perHead_get_ofFn, stopRuns_get]
    split
    · exact takeStop_keepsOrSwaps _
    · exact keepsOrSwaps_refl _

/-! ## Every verb -/

/-- Heads of which a verb changes neither timing, commit nor banks. -/
theorem tablesSound_of_mapHeads {s t : State} {f : HeadId → Head → Head} (apart : ArmedApart s) (sound : TablesSound s)
    (side : tableSide t = { tableSide s with heads := s.heads.mapHeads f }) (kept : ∀ k h, KeepsOrSwaps h (f k h)) :
    TablesSound t := by
  refine (freePairsSwapped_of_heads apart side fun k => ?_).keeps sound
  rw [perHead_get_mapHeads]
  exact kept k _

/-- What a verb's rule carries out at a due take keeps the tables sound. -/
theorem ruleOf_tablesSound {v : Verb} {p : Packet} {s s' : State} (idle : s.loader.state = .idle)
    (ready : s.control.state = .ready) (apart : ArmedApart s) (sound : TablesSound s) (carry : ruleOf v p s = .carryOut s') :
    TablesSound s' := by
  cases v with
  | discover =>
    simp only [ruleOf, ruleDiscover, doneWith] at carry
    split_ifs at carry <;> cases carry <;> exact sound.congr (tableSide_answerPacket _ _ _ _)
  | setAccept =>
    simp only [ruleOf, ruleSetAccept, doneWith] at carry
    split_ifs at carry <;> cases carry <;> exact sound.congr (tableSide_answerPacket _ _ _ _)
  | setLink =>
    cases carry
    exact sound.congr (tableSide_answerPacket _ _ _ _)
  | setIntake =>
    simp only [ruleOf, ruleSetIntake, doneWith] at carry
    split at carry <;> cases carry
    exact sound.congr (tableSide_answerPacket _ _ _ _)
  | setGuard =>
    simp only [ruleOf, ruleSetGuard, doneWith] at carry
    split at carry <;> cases carry
    exact sound.congr (tableSide_answerPacket _ _ _ _)
  | setReturn =>
    simp only [ruleOf, ruleSetReturn, doneWith] at carry
    split at carry <;> cases carry
    exact sound.congr (tableSide_answerPacket _ _ _ _)
  | clearFault =>
    simp only [ruleOf, ruleClearFault, doneWith] at carry
    split at carry <;> cases carry
    refine TablesSound.congr ?_ (tableSide_answerPacket _ _ _ _)
    by_cases counts : (byteAt p.body 0).getLsbD 3 = true
    · refine tablesSound_of_mapHeads (t := clearItems (byteAt p.body 0) s)
        (f := fun _ h => { h with missTotal := 0, shortFrames := 0 }) apart sound ?_ fun _ _ => keepsOrSwaps_of_kept rfl rfl rfl
      simp only [clearItems, tableSide, if_pos counts]
    · refine sound.congr (t := clearItems (byteAt p.body 0) s) ?_
      simp only [clearItems, tableSide, if_neg counts]
  | readStatus =>
    simp only [ruleOf, ruleReadStatus, doneWith] at carry
    split at carry <;> cases carry
    · refine TablesSound.congr ?_ (tableSide_answerPacket _ _ _ _)
      exact tablesSound_of_mapHeads (f := fun _ h => { h with parkedFlag := false, committedFlag := false, fillFlag := false })
        apart sound rfl fun _ _ => keepsOrSwaps_of_kept rfl rfl rfl
    · exact sound
  | resetUnit => exact ruleResetUnit_tablesSound carry
  | setTiming => exact ruleSetTiming_tablesSound ready sound idle carry
  | start =>
    simp only [ruleOf, ruleStart, doneWith] at carry
    split at carry <;> cases carry
    refine TablesSound.congr ?_ (tableSide_answerPacket _ _ _ _)
    refine tablesSound_of_mapHeads (f := fun h head =>
      if (packetMask p).get h then startHead (s.receiver.state == .locked) head else head) apart sound rfl fun k h => ?_
    split
    · exact startHead_keepsOrSwaps _ h
    · exact keepsOrSwaps_refl h
  | stop => exact ruleStop_tablesSound apart sound carry
  | writeTable => exact ruleWriteTable_tablesSound ready sound idle carry
  | readTable =>
    simp only [ruleOf, ruleReadTable, doneWith] at carry
    split at carry
    · split at carry
      · cases carry
      · split_ifs at carry
        cases carry
        exact sound.congr (tableSide_answerPacket _ _ _ _)
    · cases carry
  | sync => exact ruleSync_tablesSound ready sound idle carry
  | commit => exact ruleCommit_tablesSound apart sound carry
  | cancel => exact ruleCancel_tablesSound ready sound idle carry

/-! ## Every take and every command -/

theorem takeVerb_tablesSound (v : Verb) {s : State} (apart : ArmedApart s) (sound : TablesSound s) :
    TablesSound (takeVerb v (ruleOf v) s) := by
  obtain same | ⟨p, rest, idle, ready, -, -, judged⟩ := takeVerb_cases v (ruleOf v) s
  · rwa [same]
  · rw [judged]
    obtain ⟨-, form⟩ | ⟨-, ⟨o, refusal⟩ | ⟨s', carry, result⟩⟩ := judge_cases v (ruleOf v) p (afterTake rest s)
    · rw [form]
      exact sound.congr (tableSide_refuseForm p _)
    · rw [refusal]
      exact sound.congr (tableSide_refuseTake o p _)
    · rw [result]
      exact ruleOf_tablesSound (s := afterTake rest s) idle ready (apart.congr rfl) (sound.congr rfl) carry

theorem initializationCompletion_tablesSound {s : State} (quiet : QuietWhileInitializing s) (sound : TablesSound s) :
    TablesSound (initializationCompletion s) := by
  unfold initializationCompletion
  split
  · rename_i initializing
    obtain ⟨readySound, readyApart⟩ := readyUnit_tablesSound initializing quiet sound
    have finished := readySound.congr (tableSide_finishInitialization s)
    obtain noTake | unknown | ⟨v, taken⟩ := takeOldest_cases (finishInitialization s)
    · rwa [noTake]
    · rw [unknown]
      exact finished.congr (tableSide_takeUnknown _)
    · rw [taken]
      exact takeVerb_tablesSound v (readyApart.congr (tableSide_finishInitialization s)) finished
  · exact sound

theorem whileReleased_tablesSound {f : State → State} {s : State} (sound : TablesSound s) (changed : TablesSound (f s)) :
    TablesSound (whileReleased f s) := whileReleased_induction sound changed

theorem exec_takeOf_tablesSound {v : Verb} {s t : State} (apart : ArmedApart s) (sound : TablesSound s)
    (run : exec (takeOf v) s = .next t) : TablesSound t := by
  rw [exec_takeOf] at run
  cases run
  exact whileReleased_tablesSound sound (takeVerb_tablesSound v apart sound)

/-- Every command keeps the tables sound, where armed tables have no jobs and an initializing unit is quiet. -/
theorem exec_tablesSound {c : Instr} {s t : State} (apart : ArmedApart s) (quiet : QuietWhileInitializing s)
    (sound : TablesSound s) (run : exec c s = .next t) : TablesSound t := by
  cases c with
  | powerOnReset broken => cases run; exact powerOn_tablesSound broken s
  | resetInputRelease carrier => cases run; exact sound.congr (tableSide_releaseReset carrier s)
  | initializationCompletion =>
    cases run; exact whileReleased_tablesSound sound (initializationCompletion_tablesSound quiet sound)
  | carrierUp => cases run; exact whileReleased_tablesSound sound (sound.congr (tableSide_carrierUp s))
  | carrierLoss broken => cases run; exact whileReleased_tablesSound sound (sound.congr (tableSide_carrierLoss broken s))
  | frameStart f w h => cases run; exact whileReleased_tablesSound sound (frameStart_tablesSound apart sound f w h)
  | malformedMarker bytes => cases run; exact whileReleased_tablesSound sound (sound.congr (tableSide_malformedMarker bytes s))
  | lineCompletion pixels => cases run; exact whileReleased_tablesSound sound (lineCompletion_tablesSound apart sound pixels)
  | packetArrival bytes => cases run; exact whileReleased_tablesSound sound (sound.congr (tableSide_packetArrival bytes s))
  | absenceExpiry => cases run; exact whileReleased_tablesSound sound (absenceExpiry_tablesSound apart sound)
  | fillTimerExpiry h => cases run; exact whileReleased_tablesSound sound (fillTimerExpiry_tablesSound apart sound h)
  | writeCompletion => cases run; exact whileReleased_tablesSound sound (writeCompletion_tablesSound sound)
  | generationCompletion => cases run; exact whileReleased_tablesSound sound (generationCompletion_tablesSound sound)
  | segmentCopyCompletion => cases run; exact whileReleased_tablesSound sound (segmentCopyCompletion_tablesSound sound)
  | sendStart => cases run; exact whileReleased_tablesSound sound (sound.congr rfl)
  | sendCompletion held arrived =>
    cases run; exact whileReleased_tablesSound sound (sound.congr (tableSide_completeSend held arrived s))
  | relayArrival a => cases run; exact whileReleased_tablesSound sound (sound.congr rfl)
  | holdBackRelease asserted => cases run; exact sound.congr rfl
  | unknownVerb => cases run; exact whileReleased_tablesSound sound (sound.congr (tableSide_takeUnknown s))
  | discover => exact exec_takeOf_tablesSound (v := .discover) apart sound run
  | setAccept => exact exec_takeOf_tablesSound (v := .setAccept) apart sound run
  | setLink => exact exec_takeOf_tablesSound (v := .setLink) apart sound run
  | setIntake => exact exec_takeOf_tablesSound (v := .setIntake) apart sound run
  | setGuard => exact exec_takeOf_tablesSound (v := .setGuard) apart sound run
  | setReturn => exact exec_takeOf_tablesSound (v := .setReturn) apart sound run
  | clearFault => exact exec_takeOf_tablesSound (v := .clearFault) apart sound run
  | readStatus => exact exec_takeOf_tablesSound (v := .readStatus) apart sound run
  | resetUnit => exact exec_takeOf_tablesSound (v := .resetUnit) apart sound run
  | setTiming => exact exec_takeOf_tablesSound (v := .setTiming) apart sound run
  | start => exact exec_takeOf_tablesSound (v := .start) apart sound run
  | stop => exact exec_takeOf_tablesSound (v := .stop) apart sound run
  | writeTable => exact exec_takeOf_tablesSound (v := .writeTable) apart sound run
  | readTable => exact exec_takeOf_tablesSound (v := .readTable) apart sound run
  | sync => exact exec_takeOf_tablesSound (v := .sync) apart sound run
  | commit => exact exec_takeOf_tablesSound (v := .commit) apart sound run
  | cancel => exact exec_takeOf_tablesSound (v := .cancel) apart sound run

/-- What every command makes of the states that meet an invariant, whatever commands wait, every step makes of them. -/
theorem step_leads {Inv Post : State → Prop} (queue : ∀ s rest, Inv s → Inv { s with pending := rest })
    (idle : ∀ s, Inv s → Post s) (command : ∀ c s t, Inv s → exec c s = .next t → Post t) {s t : State} (inv : Inv s)
    (run : step s = .next t) : Post t := by
  unfold step at run
  split at run
  · exact command _ _ _ (queue s _ inv) run
  · split at run
    · exact command _ _ _ inv run
    · cases run
      exact idle s inv

/-- Settles O57: swaps touch pairs without jobs alone, a busy loader's verb is for pairs without jobs, and the copy in flight is the
next copy of the job list at every command. -/
theorem copyEngineAndBankShapesStaySound : Obligations.CopyEngineAndBankShapesStaySound := by
  intro s t inv run
  refine step_leads (Inv := fun s => CommitsSound s ∧ QuietWhileInitializing s ∧ TablesSound s) (Post := TablesSound)
    (fun _ _ inv => inv) (fun _ inv => inv.2.2) (fun c s t inv run => ?_) inv run
  obtain ⟨commits, quiet, sound⟩ := inv
  exact exec_tablesSound (armedApart_of_commitsSound commits) quiet sound run

end Sys2Proof.Proofs
end

section
/-! What a head does at an absence expiry and at its fill timer's expiry, as whole runs and next states (chapter 4; R59, R66, R69, R70,
R72 to R74, R81, R99 to R101). -/

namespace Sys2Proof.Proofs

open Sys2Proof.Machine Sys2Proof.Laws

/-! ## An absence expiry (R69, R70, R72, R74) -/

/-- A head whose owed lines have been emitted as fill, with one short frame counted if any was owed (R66, R72). -/
def filledHead (h : Head) : Head :=
  { h with nextLine := h.timing.height
           shortFrames := if h.nextLine < h.timing.height then min 65535 (h.shortFrames + 1) else h.shortFrames }

/-- A head at the end of a frame whose owed lines, which may be none, it emits as fill. -/
def filledRun (h : Head) : HeadRun :=
  { head := filledHead h, emitted := List.replicate (h.timing.height - h.nextLine) (.line (fillLine h)), swapped := none }

theorem endFrame_asFill (view : View) {h : Head} (line : h.nextLine ≤ h.timing.height) :
    endFrame view true (beginRun h) = filledRun h := by
  by_cases owed : h.nextLine < h.timing.height
  · rw [endFrame_of_owed view true (r := beginRun h) owed, filledRun, filledHead, if_pos owed]
    rfl
  · have last : h.timing.height = h.nextLine := by omega
    rw [endFrame, if_neg (show ¬(beginRun h).head.nextLine < (beginRun h).head.timing.height from owed), filledRun, filledHead,
      if_neg owed, last, Nat.sub_self]
    rfl

/-- A running head fills its owed lines, and then parks where it is stopping and enters FILL where it is not (R72, R81). -/
theorem takeAbsence_of_run (view : View) {h : Head} (run : h.state = .run) (line : h.nextLine ≤ h.timing.height) :
    takeAbsence view h =
      if h.stopPending then park (filledRun h) else { filledRun h with head := enterFill (filledHead h) } := by
  simp only [takeAbsence, run, endFrame_asFill view line]
  rfl

/-- Settles O20: each state of the head in turn; a stopping head that runs parks with its lines filled. -/
theorem absenceExpiryTurnsHeadsToFill : Obligations.AbsenceExpiryTurnsHeadsToFill := by
  intro view h line timer
  refine ⟨fun idle => ?_, fun priming => ?_, fun run goesOn => ?_, fun run stopping => ?_⟩
  · obtain parked | fill := idle
    · simp only [takeAbsence, parked]
      rfl
    · simp only [takeAbsence, fill]
      rfl
  · simp only [takeAbsence, priming]
    rfl
  · rw [takeAbsence_of_run view run line, if_neg (by simp [goesOn])]
    rfl
  · have untimed : h.fillTimer = none := timer.resolve_right (by simp [run])
    have parks := parkedHead_of_untimed (h := filledHead h) untimed
    rw [takeAbsence_of_run view run line, if_pos stopping]
    refine ⟨fun c armed untagged => ?_, fun tagged => ?_⟩
    · rw [park_of_due (r := filledRun h) armed untagged, filledRun, parks]
      rfl
    · rw [park_of_not_due (r := filledRun h) tagged, filledRun, parks]
      rfl

/-! ## A fill timer expiry (R73) -/

/-- A head after its fill frame: its miss count latched, its next line H_out, its timer restarted (R73). -/
def fillFrameHead (h : Head) : Head :=
  { h with missLatched := h.missRunning, missRunning := 0, nextLine := h.timing.height
           fillTimer := some h.timing.fillPeriod }

/-- One whole frame of a head's fill lines (R59, R73). -/
def fillFrame (h : Head) : List PortItem := .frameBegin :: List.replicate h.timing.height (.line (fillLine h))

/-- At the fill timer a commit is due where it is untagged (R99). -/
theorem dueAtFrame_none_iff (c : ArmedCommit) : dueAtFrame none c = true ↔ c.frameTag = none := by
  unfold dueAtFrame
  split <;> simp_all

theorem takeFillTimer_of_due {h : Head} {c : ArmedCommit} (armed : h.armed = some c) (untagged : c.frameTag = none) :
    takeFillTimer h =
      { head := fillFrameHead (swapHead c h), emitted := fillFrame (swapHead c h), swapped := some c } := by
  simp only [takeFillTimer, headFrameStart_of_due (r := beginRun h) armed ((dueAtFrame_none_iff c).2 untagged)]
  rfl

theorem takeFillTimer_of_not_due {h : Head} (tagged : ∀ c, h.armed = some c → c.frameTag ≠ none) :
    takeFillTimer h = { head := fillFrameHead h, emitted := fillFrame h, swapped := none } := by
  have notDue (c : ArmedCommit) (armed : h.armed = some c) : dueAtFrame none c = false :=
    Bool.eq_false_iff.2 (mt (dueAtFrame_none_iff c).1 (tagged c armed))
  simp only [takeFillTimer, headFrameStart_of_not_due (r := beginRun h) notDue]
  rfl

/-- An event of head `k` alone. -/
def runOf (k : HeadId) (f : Head → HeadRun) (j : HeadId) (h : Head) : HeadRun := if j = k then f h else beginRun h

/-- The state that an event of head `k` alone leaves, its answers apart. -/
def afterRunOf (k : HeadId) (r : HeadRun) (s : State) : State :=
  { s with heads := s.heads.set k r.head
           outputs := { s.outputs with ports := s.outputs.ports.set k (s.outputs.ports.get k ++ r.emitted) } }

theorem applyRuns_runOf (k : HeadId) (f : Head → HeadRun) (s : State) :
    applyRuns (.ofFn fun j => runOf k f j (s.heads.get j)) s = afterRunOf k (f (s.heads.get k)) s := by
  have heads : (PerHead.ofFn fun j => (runOf k f j (s.heads.get j)).head) = s.heads.set k (f (s.heads.get k)).head :=
    perHead_ext fun j => by
      rw [perHead_get_ofFn, perHead_get_set, runOf]
      split
      · rename_i same
        rw [same]
      · rfl
  have ports : (PerHead.ofFn fun j => s.outputs.ports.get j ++ (runOf k f j (s.heads.get j)).emitted) =
      s.outputs.ports.set k (s.outputs.ports.get k ++ (f (s.heads.get k)).emitted) :=
    perHead_ext fun j => by
      rw [perHead_get_ofFn, perHead_get_set, runOf]
      split
      · rename_i same
        rw [same]
      · exact List.append_nil _
  simp only [applyRuns, perHead_get_ofFn, heads, ports]
  rfl

/-- Where one head alone swaps, its COMMITTED answer is the only one. -/
theorem answerSwaps_of_one {runs : PerHead HeadRun} {k : HeadId} {c : ArmedCommit} (swaps : (runs.get k).swapped = some c)
    (others : ∀ j, j ≠ k → (runs.get j).swapped = none) (s : State) :
    answerSwaps allHeads runs s = answerCommitted k c s := by
  cases k <;> simp [answerSwaps, allHeads, swaps, others]

/-- An event of one head alone, with the answer of its swap where it swaps. -/
theorem runHeads_runOf (k : HeadId) (f : Head → HeadRun) (s : State) :
    runHeads (runOf k f) s =
      match (f (s.heads.get k)).swapped with
      | some c => answerCommitted k c (afterRunOf k (f (s.heads.get k)) s)
      | none => afterRunOf k (f (s.heads.get k)) s := by
  have own : (runOf k f k (s.heads.get k)).swapped = (f (s.heads.get k)).swapped := by simp [runOf]
  have others (j : HeadId) (other : j ≠ k) : (runOf k f j (s.heads.get j)).swapped = none := by simp [runOf, other, beginRun]
  rw [← applyRuns_runOf k f s]
  unfold runHeads
  cases swapped : (f (s.heads.get k)).swapped with
  | some c => exact answerSwaps_of_one (by rw [perHead_get_ofFn, own, swapped]) (by simpa using others) _
  | none =>
    refine answerSwaps_of_none _ _ _ fun j => ?_
    rw [perHead_get_ofFn]
    by_cases same : j = k
    · rw [same, own, swapped]
    · exact others j same

theorem exec_fillTimerExpiry_of_fill {s : State} {k : HeadId} (released : s.control.resetInput = false)
    (fill : (s.heads.get k).state = .fill) (timer : (s.heads.get k).fillTimer.isSome = true) :
    exec (.fillTimerExpiry k) s = .next (runHeads (runOf k takeFillTimer) s) := by
  show Host.Outcome.next (whileReleased (fillTimerExpiry k) s) = _
  rw [whileReleased_of_released _ released, fillTimerExpiry, if_pos ⟨fill, timer⟩]
  rfl

/-- Settles O24: the fill frame of a head whose commit is not due, and of one whose untagged commit has swapped. -/
theorem fillTimerExpiryEmitsFillFrame : Obligations.FillTimerExpiryEmitsFillFrame := by
  refine ⟨fun h x trim => ?_, fun s k released fill timer => ⟨fun tagged => ?_, fun c armed untagged => ?_⟩⟩
  · simp only [fillLine, trim]
    rfl
  · rw [exec_fillTimerExpiry_of_fill released fill timer, runHeads_runOf, takeFillTimer_of_not_due tagged]
    rfl
  · rw [exec_fillTimerExpiry_of_fill released fill timer, runHeads_runOf, takeFillTimer_of_due armed untagged]
    rfl

end Sys2Proof.Proofs
end

section
/-! The stages of the light path: trim, weighted light and lift taper, and the blend cell that gives their weight and lift (chapter 3;
R41 to R43, R46, R51 to R56). -/

namespace Sys2Proof.Proofs

open Sys2Proof.Machine Sys2Proof.Laws

/-! ## The trim stage (R46) -/

theorem trimLight_eq (gain : Nat) (offset : Int) (l : Nat) :
    trimLight gain offset l = (max 0 (min (((l : Int) * gain + 2048) / 4096 + offset) 65535)).toNat := by
  rw [trimLight]
  push_cast
  rfl

theorem trimLight_cast (gain : Nat) (offset : Int) (l : Nat) :
    (trimLight gain offset l : Int) = max 0 (min (((l : Int) * gain + 2048) / 4096 + offset) 65535) := by
  rw [trimLight_eq, Int.toNat_of_nonneg (le_max_left _ _)]

/-- Unity gain without an offset leaves the light as it is. -/
theorem trimLight_unity {l : Nat} (inRange : l ≤ 65535) : trimLight 4096 0 l = l := by
  rw [trimLight_eq]
  omega

/-- Gain 0 leaves the offset alone. -/
theorem trimLight_gain_zero (offset : Int) (l : Nat) : (trimLight 0 offset l : Int) = max 0 (min offset 65535) := by
  rw [trimLight_cast]
  simp

/-! ## The weighted light (R53) -/

theorem weightLight_full (l : Nat) : weightLight l 4096 = l := by
  unfold weightLight
  omega

theorem weightLight_zero (l : Nat) : weightLight l 0 = 0 := by simp [weightLight]

theorem weightLight_le (l : Nat) {w : Nat} (inRange : w ≤ 4096) : weightLight l w ≤ l := by
  calc weightLight l w ≤ weightLight l 4096 := Nat.div_le_div_right (Nat.add_le_add_right (Nat.mul_le_mul_left l inRange) _)
    _ = l := weightLight_full l

/-! ## The lift taper (R54) -/

theorem taperLift_dark (k : Nat) : taperLift k 0 = k := Nat.mul_div_cancel k (by decide)

theorem taperLift_antitone (k : Nat) {l more : Nat} (le : l ≤ more) : taperLift k more ≤ taperLift k l :=
  Nat.div_le_div_right (Nat.mul_le_mul_left k (Nat.sub_le_sub_left le _))

theorem taperLift_le (k l : Nat) : taperLift k l ≤ k :=
  (taperLift_antitone k (Nat.zero_le l)).trans_eq (taperLift_dark k)

/-- The lift stays below what is left of the range above the light. -/
theorem taperLift_lt {k l : Nat} (lift : k < 65536) (light : l < 65536) : taperLift k l < 65536 - l :=
  Nat.div_lt_of_lt_mul (Nat.mul_lt_mul_of_pos_right lift (Nat.sub_pos_of_lt light))

/-- At full light no lift is left. -/
theorem taperLift_bright {k : Nat} (lift : k < 65536) : taperLift k 65535 = 0 :=
  Nat.lt_one_iff.1 (taperLift_lt lift (by decide))

/-- Settles O31: each stage's rounding, clamp and end values, and the lift below the range that the weighted light leaves. -/
theorem lightStagesRoundClampAndStayInRange : Obligations.LightStagesRoundClampAndStayInRange := by
  refine ⟨fun l g o light => ⟨trimLight_cast g o l, trimLight_unity light, trimLight_gain_zero o l⟩,
    fun l w => ⟨rfl, weightLight_full l, weightLight_zero l, weightLight_le l⟩, fun k l w lift light weight => ?_⟩
  have weighted := weightLight_le l weight
  have tapered := taperLift_lt (k := k) (l := l) (by omega) (by omega)
  exact ⟨rfl, taperLift_dark k, taperLift_bright (by omega), taperLift_le k l, fun _ => taperLift_antitone k, by omega, by omega⟩

/-! ## The light path (R41 to R43, R51 to R56) -/

/-- Entry `e` of a DECODE or ENCODE bank stands in segment `e / 64` (R43, R56). -/
theorem bankValue_of_stored {bank : Bank} {entries : List Nat} {e code : Nat} (segment : bank[e / 64]? = some (.values entries))
    (entry : entries[e % 64]? = some code) : bankValue bank e = code := by
  simp [bankValue, segment, List.getD_eq_getElem?_getD, entry]

theorem bankBlend_of_stored {bank : Bank} {m n : Nat} {row : List BlendPoint} {p : BlendPoint}
    (segment : bank[n]? = some (.blends row)) (entry : row[m]? = some p) : bankBlend bank m n = p := by
  simp [bankBlend, segment, List.getD_eq_getElem?_getD, entry]

/-- The rounded mean of four natural corner values over a cell of size `c`, in natural numbers (R51, R52). -/
def cornerMean (c fx fy v00 v10 v01 v11 : Nat) : Nat :=
  ((c - fx) * (c - fy) * v00 + fx * (c - fy) * v10 + (c - fx) * fy * v01 + fx * fy * v11 + c ^ 2 / 2) / c ^ 2

/-- The bilinear mean of natural corner values is their mean in natural numbers. -/
theorem bilinear_toNat {c fx fy : Nat} (inX : fx ≤ c) (inY : fy ≤ c) (v00 v10 v01 v11 : Nat) :
    (bilinear c fx fy v00 v10 v01 v11).toNat = cornerMean c fx fy v00 v10 v01 v11 := by
  have mean : bilinear c fx fy v00 v10 v01 v11 = (cornerMean c fx fy v00 v10 v01 v11 : Int) := by
    rw [bilinear_eq, cornerSum, cornerMean]
    push_cast [inX, inY]
    rfl
  rw [mean, Int.toNat_natCast]

/-- Settles O29: the three channels stage by stage, the entries of the banks, and the means over the blend cell. -/
theorem lightPathFollowsItsStages : Obligations.LightPathFollowsItsStages := by
  refine ⟨fun head u v ts x trim => ?_, fun bank entries e code => bankValue_of_stored,
    fun bank c u v cell => ?_, fun bank m n row p => bankBlend_of_stored⟩
  · have trimmed : bankTrim head.pairs.trim.live = x := by
      rw [trim]
      rfl
    simp only [lightPixel, trimmed, lightChannel, trimLight_eq]
    rfl
  · have inX := (Nat.mod_lt u cell).le
    have inY := (Nat.mod_lt v cell).le
    exact ⟨bilinear_toNat inX inY _ _ _ _, bilinear_toNat inX inY _ _ _ _⟩

end Sys2Proof.Proofs
end

section
/-! What a frame start does to a head that owes no line, and which head answers COMMITTED at an event handed to all four (chapter 4;
R68 to R71, R74, R81, R99 to R102, R165 to R167). -/

namespace Sys2Proof.Proofs

open Sys2Proof.Machine Sys2Proof.Safety Sys2Proof.Laws

/-! ## A frame start with nothing owed (R68 to R71, R74) -/

/-- A head in PRIMING, in FILL, or in RUN with its frame complete goes on to its new frame alike (R70, R71, R74). -/
theorem takeFrameStart_of_none_owed (view : View) (regain : Bool) (f : Byte) {h : Head} (legal : HeadLegal h)
    (goesOn : h.stopPending = false)
    (ready : h.state = .priming ∨ h.state = .fill ∨ (h.state = .run ∧ h.nextLine = h.timing.height)) :
    takeFrameStart view regain f h =
      headFrameStart (some f) (beginRun { h with state := .run, fillTimer := none }) := by
  obtain ⟨-, -, -, timer, -⟩ := legal
  have untimed (notFill : h.state ≠ .fill) : h.fillTimer = none := by
    rwa [← Option.not_isSome_iff_eq_none, timer]
  obtain priming | fill | ⟨run, last⟩ := ready
  · simp only [takeFrameStart, priming, untimed (by simp [priming])]
  · simp only [takeFrameStart, fill]
  · have complete : endFrame view regain (beginRun h) = beginRun h := if_neg (by simp [beginRun, last])
    have same : { h with state := .run, fillTimer := none } = h := by
      rw [← run, ← untimed (by simp [run])]
    rw [same]
    simp only [takeFrameStart, run, complete, goesOn]
    rfl

/-- Settles O18: a parked head swaps a commit tagged with the number; any other head that owes nothing begins its frame. -/
theorem frameStartSwapsDueCommit : Obligations.FrameStartSwapsDueCommit := by
  refine ⟨fun view regain f h parked => ?_, fun view regain f h legal goesOn ready => ?_⟩
  · have handed : takeFrameStart view regain f h = swapWhen (dueWhileParked f) (beginRun h) := by
      simp only [takeFrameStart, parked]
    rw [handed]
    refine ⟨fun c armed tagged => ?_, fun other => ?_⟩
    · exact swapWhen_of_due (r := beginRun h) armed ((dueWhileParked_iff f c).2 tagged)
    · exact swapWhen_of_not_due (r := beginRun h) fun c armed =>
        Bool.eq_false_iff.2 (mt (dueWhileParked_iff f c).1 (other c armed))
  · obtain ⟨swaps, stays⟩ :=
      headFrameStart_swapsWhere f (r := beginRun { h with state := .run, fillTimer := none }) rfl
    rw [takeFrameStart_of_none_owed view regain f legal goesOn ready]
    exact ⟨swaps, fun notDue => stays fun c armed => not_or.2 (notDue c armed)⟩
/-! ## The COMMITTED answers of swaps (R81, R100 to R102) -/

/-- The answer of a head that has swapped a commit, as a change of the state; none where it has not (R100). -/
def committedAnswer (k : HeadId) : Option ArmedCommit → List (State → State)
  | some c => [answerCommitted k c]
  | none => []

/-- What that answer brings to the own queue of an ACTIVE unit with this hop: nothing where it is not wanted (R165). -/
def committedRecord (hop : Option Byte) (k : HeadId) : Option ArmedCommit → List Answer
  | some c => if c.wanted = true then [makeAnswer hop 0x26#8 c.tag .committed (some k) []] else []
  | none => []

theorem committedRecord_length_le_one (hop : Option Byte) (k : HeadId) (swapped : Option ArmedCommit) :
    (committedRecord hop k swapped).length ≤ 1 := by
  unfold committedRecord
  split
  · split <;> simp
  · simp

/-- The answers of an event are those of its swapping heads, one after another. -/
theorem answerSwaps_eq_foldl (order : List HeadId) (runs : PerHead HeadRun) (s : State) :
    answerSwaps order runs s =
      (order.flatMap fun k => committedAnswer k (runs.get k).swapped).foldl (fun x answer => answer x) s := by
  rw [List.foldl_flatMap, answerSwaps]
  congr 1
  funext x k
  cases (runs.get k).swapped <;> rfl

theorem SameAnswering.answerSwaps {s s' : State} (same : SameAnswering s s') (order : List HeadId) (runs : PerHead HeadRun) :
    SameAnswering (answerSwaps order runs s) (answerSwaps order runs s') := by
  refine SameAnswering.foldl order (fun k _ x y same => ?_) same
  cases (runs.get k).swapped with
  | none => exact same
  | some c => exact same.generate _ _ _ _ _ _

/-- An ACTIVE unit with room in its own queue queues the COMMITTED answer of a head that has swapped, where it is wanted (R150,
R165, R167). -/
theorem answerSwaps_one_answers {s : State} (active : confinement s = .active) (room : s.answers.own.length < 4) (k : HeadId)
    (runs : PerHead HeadRun) :
    (answerSwaps [k] runs s).answers =
      { s.answers with own := s.answers.own ++ committedRecord s.filter.hop k (runs.get k).swapped } := by
  simp only [answerSwaps, List.foldl_cons, List.foldl_nil]
  cases (runs.get k).swapped with
  | none => simp [committedRecord]
  | some c =>
    by_cases wanted : c.wanted = true
    · simp only [answerCommitted, generate_eq, active, wanted, answerAllowed, and_self, if_true, queueAnswer, room,
        committedRecord]
      rfl
    · simp [answerCommitted, generate_eq, committedRecord, wanted]

/-- With room for one answer per head, no COMMITTED answer of an ACTIVE unit is dropped (R167). -/
theorem answerSwaps_answers_of_room (order : List HeadId) (runs : PerHead HeadRun) {s : State}
    (active : confinement s = .active) (room : s.answers.own.length + order.length ≤ 4) :
    (answerSwaps order runs s).answers =
      { s.answers with own := s.answers.own ++
          order.flatMap fun k => committedRecord s.filter.hop k (runs.get k).swapped } := by
  induction order generalizing s with
  | nil => simp [answerSwaps]
  | cons k ks ih =>
    rw [List.length_cons] at room
    have queued := answerSwaps_one_answers active (by omega) k runs
    have short := committedRecord_length_le_one s.filter.hop k (runs.get k).swapped
    have hop : (answerSwaps [k] runs s).filter = s.filter := by rw [answerSwaps_eq]
    have stillActive : confinement (answerSwaps [k] runs s) = .active := by
      rw [answerSwaps_eq]
      exact active
    show (answerSwaps ks runs (answerSwaps [k] runs s)).answers = _
    rw [ih stillActive (by rw [queued, List.length_append]; omega), queued, hop, List.append_assoc, List.flatMap_cons]

/-- The answers of an event handed to the heads, as the heads of `s` swap at it and as `s` answers: one COMMITTED for each that
swaps, in some order, and none dropped from an empty queue of an ACTIVE unit (R100 to R102, R166, R167). -/
theorem handToHeads_answers (f : Head → HeadRun) {s x : State} (heads : x.heads = s.heads) (same : SameAnswering x s) :
    (∃ order : List HeadId, order.Perm allHeads ∧
      (handToHeads f x).answers =
        ((order.flatMap fun k => committedAnswer k (f (s.heads.get k)).swapped).foldl (fun y answer => answer y) s).answers) ∧
    (s.answers.own = [] → confinement s = .active →
      (handToHeads f x).answers.own.Perm
          (allHeads.flatMap fun k => committedRecord s.filter.hop k (f (s.heads.get k)).swapped) ∧
        { (handToHeads f x).answers with own := [] } = s.answers) := by
  have perm := headOrder_perm (Config.headTurn x.turn)
  have answered : (handToHeads f x).answers =
      (answerSwaps (headOrder (Config.headTurn x.turn)) (.ofFn fun k => f (s.heads.get k)) s).answers := by
    rw [handToHeads, heads]
    exact (SameAnswering.answerSwaps (s := { applyRuns _ x with turn := x.turn + 1 }) same _ _).1
  refine ⟨⟨_, perm, ?_⟩, fun empty active => ?_⟩
  · rw [answered, answerSwaps_eq_foldl]
    simp only [perHead_get_ofFn]
  · rw [answered, answerSwaps_answers_of_room _ _ active (by simp [empty, perm.length_eq, allHeads])]
    simp only [perHead_get_ofFn, empty, List.nil_append]
    refine ⟨perm.flatMap_right _, ?_⟩
    rw [← empty]

/-- Settles O23: each event is handed to the heads in a state that answers as the one before it. -/
theorem committedAnswersOncePerSwappingHead : Obligations.CommittedAnswersOncePerSwappingHead := by
  intro s released
  refine ⟨fun f w h carrier => ?_, fun pixels locked owed => ?_, fun coasting timer => ?_⟩
  · have answers := handToHeads_answers (takeFrameStart (viewOf s) (s.receiver.state == .coasting) f)
      (x := repeatThru (.marker (encodeMarker f w h)) { s with receiver := startedFrame f w h s.receiver, ring := [] })
      (s := s) rfl ⟨rfl, rfl, rfl⟩
    refine ⟨_, ?_, answers⟩
    show Host.Outcome.next (whileReleased (frameStart f w h) s) = _
    rw [whileReleased_of_released _ released, frameStart, if_neg carrier]
    rfl
  · have answers := handToHeads_answers (takeLine (viewOf (placedLine pixels s)) s.receiver.lines) (x := placedLine pixels s)
      (s := s) rfl ⟨rfl, rfl, rfl⟩
    have run : exec (.lineCompletion pixels) s =
        .next (handToHeads (takeLine (viewOf (placedLine pixels s)) s.receiver.lines) (placedLine pixels s)) := by
      show Host.Outcome.next (whileReleased (lineCompletion pixels) s) = _
      rw [whileReleased_of_released _ released, lineCompletion_of_owed pixels locked owed]
    refine ⟨_, run, ?_⟩
    rw [← ringPush_eq_drop]
    exact answers
  · have answers := handToHeads_answers (takeAbsence (viewOf s)) (x := { s with receiver := endedLock s.receiver, ring := [] })
      (s := s) rfl ⟨rfl, rfl, rfl⟩
    refine ⟨_, ?_, answers⟩
    show Host.Outcome.next (whileReleased absenceExpiry s) = _
    rw [whileReleased_of_released _ released, absenceExpiry, if_pos ⟨coasting, timer⟩]
    rfl

end Sys2Proof.Proofs
end

section
/-! START, and the refusals of the head and table verbs that depend on the state (chapters 4, 5 and 8; R76, R78, R86, R92, R97,
R158). -/

namespace Sys2Proof.Proofs

open Sys2Proof.Machine Sys2Proof.Safety Sys2Proof.Laws

/-! ## Refusals that depend on the state -/

/-- A due take with a head in its mask is refused as the verb's rule refuses it (R137). -/
theorem exec_takeOf_of_maskedRefusal {v : Verb} {p : Packet} {rest : List Packet} {s : State} {o : OutcomeCode}
    (takes : Takes v p rest s) (masked : packetHeads p ≠ []) (refusal : ruleOf v p (afterTake rest s) = .refuse o) :
    exec (takeOf v) s = .next (refuseTake o p (afterTake rest s)) := by
  rw [exec_takeOf, takeVerb_of_takes takes, refusal]
  simp [masked]

/-- The guard holds a verb in STRICT on an occupied fault record (R158). -/
theorem guardPasses_of_held {r : FaultRecord} (strict : r.guard = .strict) (occupied : r.entry ≠ none) :
    guardPasses r = false :=
  Bool.eq_false_iff.2 (mt (guardPasses_iff r).1 (by simp [strict, occupied]))

section Rules
variable {p : Packet} {s : State}

theorem ruleStart_of_notParked (running : ∃ h ∈ packetHeads p, (s.heads.get h).state ≠ .parked) :
    ruleStart p s = .refuse .badState := if_pos (by simpa using running)

section OneHead
variable {h : HeadId} (one : packetHeads p = [h])
include one

theorem ruleSetTiming_of_notParked (running : (s.heads.get h).state ≠ .parked) :
    ruleSetTiming p s = .refuse .badState := by simp only [ruleSetTiming, one, if_pos running]

theorem ruleSetTiming_of_held (parked : (s.heads.get h).state = .parked) (held : guardPasses s.fault = false) :
    ruleSetTiming p s = .refuse .held := by simp [ruleSetTiming, one, parked, held]

end OneHead

section Commit
variable (tables : setTables (tableSetOf (byteAt p.body 0)) ≠ [])
include tables

theorem ruleCommit_of_held (held : guardPasses s.fault = false) : ruleCommit p s = .refuse .held :=
  (if_neg tables).trans (if_pos held)

variable (guard : s.fault.guard = .lenient ∨ s.fault.entry = none)
include guard

/-- A COMMIT past the guard goes on to the armed commits of its heads (R97). -/
theorem ruleCommit_of_armed (armed : ∃ h ∈ packetHeads p, (s.heads.get h).armed ≠ none) :
    ruleCommit p s = .refuse .busy := by
  have notHeld : ¬guardPasses s.fault = false := by simp [(guardPasses_iff _).2 guard]
  refine (if_neg tables).trans ((if_neg notHeld).trans (if_pos ?_))
  simpa [Option.isSome_iff_ne_none] using armed

/-- A COMMIT of heads without an armed commit goes on to the shadows it lists (R97). -/
theorem ruleCommit_of_notReady (unarmed : ∀ h ∈ packetHeads p, (s.heads.get h).armed = none)
    (unready : ∃ h ∈ packetHeads p, ∃ t, (tableSetOf (byteAt p.body 0)).get t = true ∧ shadowState s h t ≠ .ready) :
    ruleCommit p s = .refuse .notReady := by
  have notHeld : ¬guardPasses s.fault = false := by simp [(guardPasses_iff _).2 guard]
  have notArmed : ¬((packetHeads p).any fun h => (s.heads.get h).armed.isSome) = true := by
    simp only [List.any_eq_true, not_exists, not_and]
    exact fun h masked => by simp [unarmed h masked]
  refine (if_neg tables).trans ((if_neg notHeld).trans ((if_neg notArmed).trans (if_pos ?_)))
  obtain ⟨h, masked, t, listed, state⟩ := unready
  exact List.any_eq_true.2 ⟨(h, t), mem_namedPairs.2 ⟨masked, listed⟩, bne_iff_ne.2 state⟩

end Commit

theorem shadowOccupied_of_state {h : HeadId} {t : Table}
    (occupied : shadowState s h t = .syncing ∨ shadowState s h t = .armed) :
    shadowOccupied s h t = true := by simpa [shadowOccupied] using occupied

theorem ruleSync_of_occupied
    (occupied : ∃ h ∈ packetHeads p, ∃ t, (tableSetOf (byteAt p.body 0)).get t = true ∧
      (shadowState s h t = .syncing ∨ shadowState s h t = .armed)) : ruleSync p s = .refuse .busy := by
  obtain ⟨h, masked, t, listed, state⟩ := occupied
  have named : setTables (tableSetOf (byteAt p.body 0)) ≠ [] := List.ne_nil_of_mem ((mem_setTables _ t).2 listed)
  exact (if_neg named).trans (if_pos
    (List.any_eq_true.2 ⟨(h, t), mem_namedPairs.2 ⟨masked, listed⟩, shadowOccupied_of_state state⟩))

theorem ruleWriteTable_of_occupied {t : Table} (table : tableOf (natAt p.body 0) = some t)
    (form : t = .blend → natAt p.body 1 ≤ 1)
    (fits : ∀ h ∈ packetHeads p, natAt p.body 2 < segmentCount (s.heads.get h).timing t ∧
      natAt p.body 3 = entryCount (s.heads.get h).timing t (natAt p.body 2))
    (occupied : ∃ h ∈ packetHeads p, shadowState s h t = .syncing ∨ shadowState s h t = .armed) :
    ruleWriteTable p s = .refuse .busy := by
  obtain ⟨h, masked, state⟩ := occupied
  simp only [ruleWriteTable, table]
  rw [if_neg, if_neg, if_neg, if_pos]
  · exact List.any_eq_true.2 ⟨h, masked, shadowOccupied_of_state state⟩
  · simpa using fun k masked => (fits k masked).2
  · simpa using fun k masked => (fits k masked).1
  · simpa using form

end Rules

/-- Settles O36: each verb's rule, past its earlier checks, meets the state that it refuses. -/
theorem occupiedOrUnreadyTakesAreRefused : Obligations.OccupiedOrUnreadyTakesAreRefused := by
  intro s p rest
  refine ⟨fun takes running => ?_, fun h takes one running => ?_, fun h takes one parked strict occupied => ?_,
    fun takes masked tables strict occupied => ?_, fun takes tables guard armed => ?_,
    fun takes tables guard unarmed unready => ?_, fun takes occupied => ?_, fun t takes table form fits occupied => ?_⟩
  · exact exec_takeOf_of_maskedRefusal (v := .start) takes (List.ne_nil_of_mem running.choose_spec.1)
      (ruleStart_of_notParked running)
  · exact exec_takeOf_of_maskedRefusal (v := .setTiming) takes (by simp [one])
      (ruleSetTiming_of_notParked (s := afterTake rest s) one running)
  · exact exec_takeOf_of_maskedRefusal (v := .setTiming) takes (by simp [one])
      (ruleSetTiming_of_held (s := afterTake rest s) one parked (guardPasses_of_held strict occupied))
  · exact exec_takeOf_of_maskedRefusal (v := .commit) takes masked
      (ruleCommit_of_held (s := afterTake rest s) tables (guardPasses_of_held strict occupied))
  · exact exec_takeOf_of_maskedRefusal (v := .commit) takes (List.ne_nil_of_mem armed.choose_spec.1)
      (ruleCommit_of_armed (s := afterTake rest s) tables guard armed)
  · exact exec_takeOf_of_maskedRefusal (v := .commit) takes (List.ne_nil_of_mem unready.choose_spec.1)
      (ruleCommit_of_notReady (s := afterTake rest s) tables guard unarmed unready)
  · exact exec_takeOf_of_maskedRefusal (v := .sync) takes (List.ne_nil_of_mem occupied.choose_spec.1)
      (ruleSync_of_occupied occupied)
  · exact exec_takeOf_of_maskedRefusal (v := .writeTable) takes (List.ne_nil_of_mem occupied.choose_spec.1)
      (ruleWriteTable_of_occupied table form fits occupied)

/-! ## START (R78) -/

/-- A head after START: PRIMING where the receiver is LOCKED, else FILL with its timer started and its flag set (R78). -/
def startedByVerb (link : LinkState) (h : Head) : Head :=
  if link = .locked then { h with state := .priming, nextLine := 0 }
  else { h with state := .fill, nextLine := 0, fillTimer := some h.timing.fillPeriod, fillFlag := true }

theorem startHead_eq (link : LinkState) (h : Head) : startHead (link == .locked) h = startedByVerb link h := by
  by_cases locked : link = .locked
  · rw [startedByVerb, if_pos locked, locked]
    rfl
  · rw [startedByVerb, if_neg locked, startHead, if_neg (by simpa using locked)]
    rfl

/-- The state code of a head after START (R199). -/
theorem startedByVerb_code (link : LinkState) (h : Head) :
    byteOf (headStateCode (startedByVerb link h).state) = if link = .locked then 1#8 else 3#8 := by
  unfold startedByVerb
  split <;> rfl

/-- START of parked heads moves the heads in the mask, and answers with their new states. -/
theorem ruleStart_of_parked {p : Packet} {s : State} (parked : ∀ h ∈ packetHeads p, (s.heads.get h).state = .parked) :
    ruleStart p s = doneWith p
      ((packetHeads p).flatMap fun h => [byteOf (headIndex h), if s.receiver.state = .locked then 1#8 else 3#8])
      { s with heads := .ofFn fun h =>
          if (packetMask p).get h = true then startedByVerb s.receiver.state (s.heads.get h) else s.heads.get h } := by
  have noneRuns : ¬((packetHeads p).any fun h => (s.heads.get h).state != .parked) = true := by simpa using parked
  simp only [ruleStart, if_neg noneRuns, startHead_eq, PerHead.mapHeads, perHead_get_ofFn]
  congr 1
  refine List.flatMap_congr fun h masked => ?_
  rw [if_pos ((mem_packetHeads p h).1 masked), startedByVerb_code]

/-- Settles O43: START's rule finds its heads parked and carries out. -/
theorem startMovesParkedHeads : Obligations.StartMovesParkedHeads := by
  intro s p rest takes masked parked
  exact exec_takeOf_of_masked (v := .start) takes masked (ruleStart_of_parked (s := afterTake rest s) parked)

end Sys2Proof.Proofs
end

section
/-! STOP: what becomes of each masked head, the masks that its DONE reports, and its answers up to their order (chapter 4; R79, R81,
R166). -/

namespace Sys2Proof.Proofs

open Sys2Proof.Machine Sys2Proof.Safety Sys2Proof.Laws

/-! ## One head (R79, R81) -/

/-- A head that STOP parks at once: in PRIMING, in FILL, or in RUN with no line owed and not stopping already. -/
def ParksAtStop (h : Head) : Prop :=
  h.state = .priming ∨ h.state = .fill ∨ (h.state = .run ∧ h.stopPending = false ∧ h.timing.height ≤ h.nextLine)

/-- A head that STOP sets stop-pending: in RUN with lines owed and not stopping already. -/
def MarkedByStop (h : Head) : Prop := h.state = .run ∧ h.stopPending = false ∧ h.nextLine < h.timing.height

section Head
variable {h : Head}

theorem takeStop_of_parks (parks : ParksAtStop h) : takeStop h = park (beginRun h) := by
  obtain priming | fill | ⟨run, fresh, last⟩ := parks
  · simp only [takeStop, priming]
  · simp only [takeStop, fill]
  · simp [takeStop, run, fresh, Nat.not_lt.2 last]

theorem takeStop_of_marked (marked : MarkedByStop h) : takeStop h = beginRun { h with stopPending := true } := by
  obtain ⟨run, fresh, owed⟩ := marked
  simp [takeStop, run, fresh, owed]

theorem takeStop_of_unaffected (parks : ¬ParksAtStop h) (marked : ¬MarkedByStop h) : takeStop h = beginRun h := by
  cases state : h.state with
  | parked => simp only [takeStop, state]
  | priming => exact absurd (.inl state) parks
  | fill => exact absurd (.inr (.inl state)) parks
  | run =>
    have stopping : h.stopPending = true := by
      by_contra fresh
      rw [Bool.not_eq_true] at fresh
      obtain owed | last := Nat.lt_or_ge h.nextLine h.timing.height
      · exact marked ⟨state, fresh, owed⟩
      · exact parks (.inr (.inr ⟨state, fresh, last⟩))
    simp [takeStop, state, stopping]

theorem park_not_stopping (r : HeadRun) : (park r).head.stopPending = false :=
  swapWhen_head (P := fun h => h.stopPending = false) rfl fun _ _ => id

/-- All that STOP can do to a head: park it, set it stop-pending, or nothing (R79). -/
theorem takeStop_cases (h : Head) :
    (ParksAtStop h ∧ takeStop h = park (beginRun h)) ∨
      (MarkedByStop h ∧ takeStop h = beginRun { h with stopPending := true }) ∨ takeStop h = beginRun h := by
  by_cases parks : ParksAtStop h
  · exact .inl ⟨parks, takeStop_of_parks parks⟩
  · by_cases marked : MarkedByStop h
    · exact .inr (.inl ⟨marked, takeStop_of_marked marked⟩)
    · exact .inr (.inr (takeStop_of_unaffected parks marked))

theorem takeStop_emitted (h : Head) : (takeStop h).emitted = [] := by
  obtain ⟨-, parked⟩ | ⟨-, marked⟩ | same := takeStop_cases h
  · rw [parked, park, swapWhen_emitted]
    rfl
  · rw [marked]
    rfl
  · rw [same]
    rfl

/-- The heads that STOP parks are those that were not parked and now are. -/
theorem takeStop_parked_iff : h.state ≠ .parked ∧ (takeStop h).head.state = .parked ↔ ParksAtStop h := by
  refine ⟨fun ⟨before, after⟩ => ?_, fun parks => ⟨?_, ?_⟩⟩
  · obtain ⟨parks, -⟩ | ⟨-, marked⟩ | same := takeStop_cases h
    · exact parks
    · rw [marked] at after
      exact absurd after before
    · rw [same] at after
      exact absurd after before
  · obtain priming | fill | ⟨run, -⟩ := parks
    · simp [priming]
    · simp [fill]
    · simp [run]
  · rw [takeStop_of_parks parks]
    exact park_state _

/-- The heads that STOP sets stopping are those that were not stop-pending and now are. -/
theorem takeStop_stopping_iff : h.stopPending = false ∧ (takeStop h).head.stopPending = true ↔ MarkedByStop h := by
  refine ⟨fun ⟨before, after⟩ => ?_, fun marked => ⟨marked.2.1, ?_⟩⟩
  · obtain ⟨-, parked⟩ | ⟨marked, -⟩ | same := takeStop_cases h
    · rw [parked, park_not_stopping] at after
      cases after
    · exact marked
    · rw [same] at after
      cases before.symm.trans after
  · rw [takeStop_of_marked marked]
    rfl

end Head

/-! ## The take (R79) -/

section Take
variable (p : Packet) (s : State)

/-- The state in which a STOP has stopped its heads, before its answers. -/
def stoppedState : State := { applyRuns (stopRuns p s) s with turn := s.turn + 1 }

/-- The heads that a STOP parks, and those it sets stopping. -/
def stopReport : HeadMask × HeadMask := stopMasks (packetMask p) s.heads (stoppedState p s).heads

/-- A STOP's own answer (R79). -/
def stopDone : State → State := answerPacket p .done [maskByte (stopReport p s).1, maskByte (stopReport p s).2]

/-- The state after a STOP, its answers in the order that the free value chooses (assumption 18). -/
def afterStop : State :=
  if Config.stopAnswersFirst s.turn then answerSwaps allHeads (stopRuns p s) (stopDone p s (stoppedState p s))
  else stopDone p s (answerSwaps allHeads (stopRuns p s) (stoppedState p s))

theorem ruleStop_eq : ruleStop p s = .carryOut (afterStop p s) := rfl

theorem stopRuns_emitted (k : HeadId) : ((stopRuns p s).get k).emitted = [] := by
  rw [stopRuns_get]
  split
  · exact takeStop_emitted _
  · rfl

/-- All that a STOP does, its answers apart: nothing but the heads and the counter changes, and nothing is emitted. -/
theorem afterStop_eq :
    afterStop p s =
      { s with
        heads := .ofFn fun k => ((stopRuns p s).get k).head
        turn := s.turn + 1
        answers := (afterStop p s).answers } := by
  have stopped : stoppedState p s =
      { s with heads := .ofFn fun k => ((stopRuns p s).get k).head, turn := s.turn + 1 } := by
    simp only [stoppedState, applyRuns, stopRuns_emitted, List.append_nil]
    rfl
  unfold afterStop
  split
  · rw [answerSwaps_eq, stopDone, answerPacket_eq, stopped]
  · rw [stopDone, answerPacket_eq, answerSwaps_eq, stopped]

theorem afterStop_head (k : HeadId) : (afterStop p s).heads.get k = ((stopRuns p s).get k).head := by
  rw [afterStop_eq, perHead_get_ofFn]

/-- A STOP answers once for itself and once for each head that swaps, as a state that answers alike does (R79, R81, R166). -/
theorem afterStop_answers {x : State} (same : SameAnswering s x) :
    ∃ order : List (State → State),
      order.Perm (stopDone p s :: allHeads.flatMap fun k => committedAnswer k ((stopRuns p s).get k).swapped) ∧
      (afterStop p s).answers = (order.foldl (fun y answer => answer y) x).answers := by
  have stopped : SameAnswering (stoppedState p s) x := same
  unfold afterStop
  split
  · refine ⟨_, .refl _, ?_⟩
    rw [List.foldl_cons, ← answerSwaps_eq_foldl]
    exact ((stopped.answerPacket p .done _).answerSwaps _ _).1
  · refine ⟨_, List.perm_append_singleton _ _, ?_⟩
    rw [List.foldl_append, ← answerSwaps_eq_foldl]
    exact ((stopped.answerSwaps _ _).answerPacket p .done _).1

/-! ## The masks of its DONE (R79, R198) -/

theorem stopReport_parked (k : HeadId) :
    (stopReport p s).1.get k = true ↔ (packetMask p).get k = true ∧ ParksAtStop (s.heads.get k) := by
  rw [← takeStop_parked_iff]
  by_cases masked : (packetMask p).get k = true
  · simp [stopReport, stopMasks, stoppedState, applyRuns, stopRuns_get, masked]
  · simp [stopReport, stopMasks, masked]

theorem stopReport_stopping (k : HeadId) :
    (stopReport p s).2.get k = true ↔ (packetMask p).get k = true ∧ MarkedByStop (s.heads.get k) := by
  rw [← takeStop_stopping_iff]
  by_cases masked : (packetMask p).get k = true
  · simp [stopReport, stopMasks, stoppedState, applyRuns, stopRuns_get, masked]
  · simp [stopReport, stopMasks, masked]

end Take

/-- A head mask as the sum of its heads' bits. -/
theorem maskByte_eq (m : HeadMask) :
    maskByte m = byteOf ((if m.h0 = true then 1 else 0) + (if m.h1 = true then 2 else 0) + (if m.h2 = true then 4 else 0) +
      (if m.h3 = true then 8 else 0)) := by
  have all : ∀ a b c d : Bool, maskByte ⟨a, b, c, d⟩ =
      byteOf ((if a = true then 1 else 0) + (if b = true then 2 else 0) + (if c = true then 4 else 0) +
        (if d = true then 8 else 0)) := by decide
  exact all m.h0 m.h1 m.h2 m.h3

/-! ## What becomes of each head -/

section Masked
variable {p : Packet} {s : State} {k : HeadId}

theorem stopRuns_of_unaffected
    (other : (packetMask p).get k = false ∨ (¬ParksAtStop (s.heads.get k) ∧ ¬MarkedByStop (s.heads.get k))) :
    (stopRuns p s).get k = beginRun (s.heads.get k) := by
  rw [stopRuns_get]
  split
  · rename_i masked
    obtain unmasked | ⟨parks, marked⟩ := other
    · simp [unmasked] at masked
    · exact takeStop_of_unaffected parks marked
  · rfl

theorem stopRuns_of_marked (masked : (packetMask p).get k = true) (marked : MarkedByStop (s.heads.get k)) :
    (stopRuns p s).get k = beginRun { s.heads.get k with stopPending := true } := by
  rw [stopRuns_get, if_pos masked, takeStop_of_marked marked]

/-- A head that STOP parks swaps an untagged commit, and no other (R81). -/
theorem stopRuns_of_parks (masked : (packetMask p).get k = true) (parks : ParksAtStop (s.heads.get k)) :
    SwapsWhere (fun c => c.frameTag = none) (s.heads.get k) (parkedHead (s.heads.get k)) [] ((stopRuns p s).get k) := by
  rw [stopRuns_get, if_pos masked, takeStop_of_parks parks]
  exact ⟨fun c armed untagged => park_of_due armed untagged, fun tagged => park_of_not_due tagged⟩

theorem stopRuns_swapped_of_not_parks (stays : ¬((packetMask p).get k = true ∧ ParksAtStop (s.heads.get k))) :
    ((stopRuns p s).get k).swapped = none := by
  by_cases marks : (packetMask p).get k = true ∧ MarkedByStop (s.heads.get k)
  · rw [stopRuns_of_marked marks.1 marks.2]
    rfl
  · rw [stopRuns_of_unaffected]
    · rfl
    · cases masked : (packetMask p).get k with
      | false => exact .inl rfl
      | true => exact .inr ⟨fun parks => stays ⟨masked, parks⟩, fun marked => marks ⟨masked, marked⟩⟩

/-- The heads that answer COMMITTED at a STOP are those it parks with an untagged commit (R81). -/
theorem stopRuns_committedAnswer :
    committedAnswer k ((stopRuns p s).get k).swapped =
      match (s.heads.get k).armed with
      | some c => if (stopReport p s).1.get k = true ∧ c.frameTag = none then
          [generate 0x26#8 c.tag c.wanted .committed (some k) []] else []
      | none => [] := by
  by_cases parks : (packetMask p).get k = true ∧ ParksAtStop (s.heads.get k)
  · have reported := (stopReport_parked p s k).2 parks
    obtain ⟨swaps, stays⟩ := stopRuns_of_parks parks.1 parks.2
    cases armed : (s.heads.get k).armed with
    | none =>
      rw [stays fun c armed' => by cases armed.symm.trans armed']
      rfl
    | some c =>
      by_cases untagged : c.frameTag = none
      · rw [swaps c armed untagged]
        exact (if_pos ⟨reported, untagged⟩).symm
      · rw [stays fun c' armed' => Option.some.inj (armed.symm.trans armed') ▸ untagged]
        exact (if_neg fun both => untagged both.2).symm
  · have unreported := mt (stopReport_parked p s k).1 parks
    rw [stopRuns_swapped_of_not_parks parks]
    cases (s.heads.get k).armed with
    | none => rfl
    | some c => exact (if_neg fun both => unreported both.1).symm

/-- A head that STOP parks is parked, and its untagged commit swapped (R79, R81). -/
theorem afterStop_head_of_parks (masked : (packetMask p).get k = true) (parks : ParksAtStop (s.heads.get k)) :
    (∀ c, (s.heads.get k).armed = some c → c.frameTag = none →
      (afterStop p s).heads.get k = swapHead c (parkedHead (s.heads.get k))) ∧
    ((∀ c, (s.heads.get k).armed = some c → c.frameTag ≠ none) →
      (afterStop p s).heads.get k = parkedHead (s.heads.get k)) := by
  obtain ⟨swaps, stays⟩ := stopRuns_of_parks masked parks
  rw [afterStop_head]
  exact ⟨fun c armed untagged => congrArg HeadRun.head (swaps c armed untagged),
    fun tagged => congrArg HeadRun.head (stays tagged)⟩

end Masked

/-- Settles O44: each head in turn, the frame, the two masks, and the answers in the order that the free value gives. -/
theorem stopParksOrMarksHeads : Obligations.StopParksOrMarksHeads := by
  intro s p rest takes masked parks marks parked
  have run : exec .stop s = .next (afterStop p (afterTake rest s)) :=
    exec_takeOf_of_masked (v := .stop) takes masked (ruleStop_eq _ _)
  refine ⟨_, run, fun k named parking => ?_, fun k named marking => ?_, fun k other => ?_, ?_,
    (stopReport p (afterTake rest s)).1, (stopReport p (afterTake rest s)).2, stopReport_parked p (afterTake rest s),
    stopReport_stopping p (afterTake rest s), ?_⟩
  · exact afterStop_head_of_parks (s := afterTake rest s) named parking
  · rw [afterStop_head, stopRuns_of_marked (s := afterTake rest s) named marking]
    rfl
  · rw [afterStop_head, stopRuns_of_unaffected (s := afterTake rest s) other]
    rfl
  · rw [afterStop_eq]
    rfl
  · have answers := afterStop_answers p (afterTake rest s) (x := s) ⟨rfl, rfl, rfl⟩
    simp only [stopDone, maskByte_eq, stopRuns_committedAnswer] at answers
    exact answers

end Sys2Proof.Proofs
end

section
/-! What the events of a head make of its commit and its banks: a swap empties the commit and sets the committed flag, and a parked
head without a commit stays one (R17, R67, R75, R99 to R101). -/

namespace Sys2Proof.Proofs

open Sys2Proof.Machine Sys2Proof.Safety Sys2Proof.Laws

/-! ## The committed flag -/

/-- From `h` to `h'`, the armed commit and the committed flag have stayed, or the commit has gone and the flag is set. -/
def KeepsOrFlags (h h' : Head) : Prop :=
  (h'.armed = h.armed ∧ h'.committedFlag = h.committedFlag) ∨ (h'.armed = none ∧ h'.committedFlag = true)

theorem keepsOrFlags_of_kept {h h' : Head} (armed : h'.armed = h.armed) (flag : h'.committedFlag = h.committedFlag) :
    KeepsOrFlags h h' := .inl ⟨armed, flag⟩

theorem keepsOrFlags_refl (h : Head) : KeepsOrFlags h h := keepsOrFlags_of_kept rfl rfl

theorem KeepsOrFlags.trans {h h' h'' : Head} (first : KeepsOrFlags h h') (second : KeepsOrFlags h' h'') :
    KeepsOrFlags h h'' := by
  obtain ⟨armed', flag'⟩ | gone := second
  · unfold KeepsOrFlags
    rwa [armed', flag']
  · exact .inr gone

theorem swapWhen_keepsOrFlags (due : ArmedCommit → Bool) (r : HeadRun) : KeepsOrFlags r.head (swapWhen due r).head := by
  obtain ⟨same, -⟩ | ⟨c, -, -, swapped⟩ := swapWhen_cases due r
  · rw [same]
    exact keepsOrFlags_refl _
  · rw [swapped]
    exact .inr ⟨rfl, rfl⟩

theorem headFrameStart_keepsOrFlags (frame : Option Byte) (r : HeadRun) : KeepsOrFlags r.head (headFrameStart frame r).head :=
  swapWhen_keepsOrFlags (dueAtFrame frame) { r with head := latchMisses r.head }

theorem park_keepsOrFlags (r : HeadRun) : KeepsOrFlags r.head (park r).head :=
  swapWhen_keepsOrFlags dueAtParking { r with head := parkedHead r.head }

theorem Released.keepsOrFlags {h h' : Head} (released : Released h h') : KeepsOrFlags h h' := by
  rw [released.kept]
  exact keepsOrFlags_of_kept rfl rfl

theorem endFrame_keepsOrFlags (view : View) (asFill : Bool) (h : Head) :
    KeepsOrFlags h (endFrame view asFill (beginRun h)).head := (endFrame_released view asFill (beginRun h)).keepsOrFlags

theorem takeFrameStart_keepsOrFlags (view : View) (regain : Bool) (frame : Byte) (h : Head) :
    KeepsOrFlags h (takeFrameStart view regain frame h).head := by
  unfold takeFrameStart
  split
  case h_1 parked => exact swapWhen_keepsOrFlags _ (beginRun h)
  case h_2 priming => exact headFrameStart_keepsOrFlags _ (beginRun { h with state := .run })
  case h_3 fill => exact headFrameStart_keepsOrFlags _ (beginRun { h with state := .run, fillTimer := none })
  case h_4 run =>
    have ended := endFrame_keepsOrFlags view regain h
    dsimp only
    split
    · exact (ended.trans (park_keepsOrFlags _)).trans (swapWhen_keepsOrFlags _ _)
    · exact ended.trans (headFrameStart_keepsOrFlags _ _)

theorem takeLine_keepsOrFlags (view : View) (n : Nat) (h : Head) : KeepsOrFlags h (takeLine view n h).head := by
  by_cases run : h.state = .run
  · have released := (formLines_released view (r := beginRun h) (dueLines_length_le view n h)).keepsOrFlags
    rw [takeLine_of_run view n run]
    split
    · exact released.trans (park_keepsOrFlags _)
    · exact released
  · rw [takeLine_of_idle view n run]
    exact keepsOrFlags_refl h

theorem takeAbsence_keepsOrFlags (view : View) (h : Head) : KeepsOrFlags h (takeAbsence view h).head := by
  unfold takeAbsence
  split
  case h_1 parked => exact keepsOrFlags_refl h
  case h_2 fill => exact keepsOrFlags_refl h
  case h_3 priming => exact keepsOrFlags_of_kept rfl rfl
  case h_4 run =>
    have ended := endFrame_keepsOrFlags view true h
    dsimp only
    split
    · exact ended.trans (park_keepsOrFlags _)
    · exact ended.trans (keepsOrFlags_of_kept rfl rfl)

theorem takeStop_keepsOrFlags (h : Head) : KeepsOrFlags h (takeStop h).head := by
  obtain ⟨-, parks⟩ | ⟨-, marked⟩ | same := takeStop_cases h
  · rw [parks]
    exact park_keepsOrFlags (beginRun h)
  · rw [marked]
    exact keepsOrFlags_of_kept rfl rfl
  · rw [same]
    exact keepsOrFlags_refl h

/-! ## What becomes of a head's commit and banks -/

/-- From `p` to `p'`, the live bank has stayed, and the shadow is wholly current if it was. -/
def PairKept (p p' : Pair) : Prop := p'.live = p.live ∧ (coverageFull p = true → coverageFull p' = true)

theorem pairKept_of_eq {p p' : Pair} (same : p' = p) : PairKept p p' := same ▸ ⟨rfl, id⟩

theorem storeSegment_pairKept (seg : Nat) (data : Segment) (p : Pair) : PairKept p (storeSegment seg data p) :=
  ⟨rfl, coverageFull_storeSegment seg data⟩

theorem copySegment_pairKept (seg : Nat) (p : Pair) : PairKept p (copySegment seg p) := by
  unfold copySegment
  split
  · exact storeSegment_pairKept seg _ p
  · exact pairKept_of_eq rfl

/-- What becomes of a head's armed commit and banks, from `h` to `h'`, where none is armed and no bank is set anew. -/
inductive BanksChange (h h' : Head) : Prop
  /-- The commit stands, and every pair is kept. -/
  | kept (armed : h'.armed = h.armed) (pairs : ∀ t, PairKept (h.pairs.get t) (h'.pairs.get t))
  /-- The commit is withdrawn, and no bank changes (R104, R184). -/
  | withdrawn (armed : h'.armed = none) (pairs : h'.pairs = h.pairs)
  /-- The commit has swapped (R75, R100). -/
  | swapped (armed : h'.armed = none) (flag : h'.committedFlag = true)
      (pairs : ∀ t, h'.pairs.get t = h.pairs.get t ∨ h'.pairs.get t = swapPair (h.pairs.get t))

theorem banksChange_of_same {h h' : Head} (armed : h'.armed = h.armed) (pairs : h'.pairs = h.pairs) : BanksChange h h' :=
  .kept armed fun t => pairKept_of_eq (congrArg (PerTable.get · t) pairs)

theorem banksChange_refl (h : Head) : BanksChange h h := banksChange_of_same rfl rfl

/-- A swap goes with the committed flag. -/
theorem banksChange_of_event {h h' : Head} (swaps : KeepsOrSwaps h h') (flags : KeepsOrFlags h h') : BanksChange h h' := by
  have pair := swaps.pair
  obtain ⟨-, ⟨armed, pairs⟩ | ⟨c, armed, gone, -⟩⟩ := swaps
  · exact banksChange_of_same armed pairs
  · refine .swapped gone ?_ fun t => (pair t).imp_right And.right
    obtain ⟨stays, -⟩ | ⟨-, flag⟩ := flags
    · cases (stays.trans armed).symm.trans gone
    · exact flag

/-- A live bank stays, or is exchanged with its shadow under a commit that is consumed (R83, R100). -/
theorem BanksChange.live {h h' : Head} (change : BanksChange h h') (t : Table) :
    (h'.pairs.get t).live = (h.pairs.get t).live ∨
      (h'.pairs.get t = swapPair (h.pairs.get t) ∧ h'.armed = none ∧ h'.committedFlag = true) := by
  cases change with
  | kept armed pairs => exact .inl (pairs t).1
  | withdrawn armed pairs => exact .inl (by rw [pairs])
  | swapped armed flag pairs =>
    obtain same | swapped := pairs t
    · exact .inl (by rw [same])
    · exact .inr ⟨swapped, armed, flag⟩

/-- A table that is still listed was listed before, and its shadow is wholly current if it was. -/
theorem BanksChange.armed {h h' : Head} (change : BanksChange h h') {t : Table} (lists : armedLists h' t = true) :
    armedLists h t = true ∧ (coverageFull (h.pairs.get t) = true → coverageFull (h'.pairs.get t) = true) := by
  cases change with
  | kept armed pairs => exact ⟨by rwa [armedLists, armed] at lists, (pairs t).2⟩
  | withdrawn armed pairs => simp [armedLists, armed] at lists
  | swapped armed flag pairs => simp [armedLists, armed] at lists

/-! ## Heads at an event -/

/-- A parked head without a commit is still one. -/
def StaysQuiet (h h' : Head) : Prop := h.state = .parked ∧ h.armed = none → h'.state = .parked ∧ h'.armed = none

/-- What an event of a frame, of the link or of a timer makes of a head. -/
structure EventChange (h h' : Head) : Prop where
  banks : BanksChange h h'
  quiet : StaysQuiet h h'

theorem eventChange_refl (h : Head) : EventChange h h := ⟨banksChange_refl h, id⟩

theorem takeFrameStart_eventChange (view : View) (regain : Bool) (frame : Byte) (h : Head) :
    EventChange h (takeFrameStart view regain frame h).head := by
  refine ⟨banksChange_of_event (takeFrameStart_keepsOrSwaps view regain frame h) (takeFrameStart_keepsOrFlags view regain frame h),
    fun ⟨parked, unarmed⟩ => ?_⟩
  simp only [takeFrameStart, parked]
  rw [swapWhen_of_not_due fun c armed => by cases unarmed.symm.trans armed]
  exact ⟨parked, unarmed⟩

theorem takeLine_eventChange (view : View) (n : Nat) (h : Head) : EventChange h (takeLine view n h).head := by
  refine ⟨banksChange_of_event (takeLine_keepsOrSwaps view n h) (takeLine_keepsOrFlags view n h), fun quiet => ?_⟩
  rw [takeLine_of_idle view n (by simp [quiet.1])]
  exact quiet

theorem takeAbsence_eventChange (view : View) (h : Head) : EventChange h (takeAbsence view h).head := by
  refine ⟨banksChange_of_event (takeAbsence_keepsOrSwaps view h) (takeAbsence_keepsOrFlags view h), fun ⟨parked, unarmed⟩ => ?_⟩
  simp only [takeAbsence, parked]
  exact ⟨parked, unarmed⟩

/-- A fill timer runs out in FILL alone (R73). -/
theorem takeFillTimer_eventChange {h : Head} (fill : h.state = .fill) : EventChange h (takeFillTimer h).head :=
  ⟨banksChange_of_event (takeFillTimer_keepsOrSwaps h) (headFrameStart_keepsOrFlags none (beginRun h)),
    fun quiet => by cases fill.symm.trans quiet.1⟩

theorem takeStop_banksChange (h : Head) : BanksChange h (takeStop h).head :=
  banksChange_of_event (takeStop_keepsOrSwaps h) (takeStop_keepsOrFlags h)

theorem startHead_banksChange (locked : Bool) (h : Head) : BanksChange h (startHead locked h) := by
  cases locked <;> exact banksChange_of_same rfl rfl

end Sys2Proof.Proofs
end

section
/-! CANCEL: the commits and jobs it withdraws, and its answers in order (R104, R105). -/

namespace Sys2Proof.Proofs

open Sys2Proof.Machine Sys2Proof.Safety Sys2Proof.Laws

/-! ## One head's jobs -/

/-- All that removing the jobs for some tables of a head does, its answers apart. -/
theorem removeJobs_eq (h : HeadId) (l : List Table) (s : State) :
    l.foldl (removeJob h) s =
      { s with
        copy := { s.copy with jobs := s.copy.jobs.filter fun j => !(j.head == h && decide (j.table ∈ l)) }
        answers := (l.foldl (removeJob h) s).answers } := by
  induction l generalizing s with
  | nil => simp
  | cons t l ih =>
    rw [List.foldl_cons, ih, removeJob_eq]
    simp only [withoutJob, List.filter_filter, State.mk.injEq, CopyEngine.mk.injEq, true_and, and_true]
    refine List.filter_congr fun j _ => ?_
    by_cases ofHead : j.head = h <;> by_cases ofTable : j.table = t <;> simp [ofHead, ofTable]

/-- The jobs for some tables of a head are answered as they stand before the first of them is removed (R104). -/
theorem removeJobs_sameAnswering {h : HeadId} {jobs : List SyncJob} {l : List Table} (distinct : l.Nodup) {s x : State}
    (same : SameAnswering s x) (listed : ∀ t ∈ l, jobsOf s.copy.jobs h t = jobsOf jobs h t) :
    SameAnswering (l.foldl (removeJob h) s) (l.foldl (fun y t => answerRemoved h t jobs y) x) := by
  induction l generalizing s x with
  | nil => exact same
  | cons t l ih =>
    obtain ⟨fresh, distinct⟩ := List.nodup_cons.1 distinct
    refine ih distinct ?_ fun u member => ?_
    · have removed := removeJob_sameAnswering same h t
      rwa [answerRemoved, listed t List.mem_cons_self] at removed
    · rw [removeJob_jobs, jobsOf_withoutJob _ _ (ne_of_mem_of_not_mem member fresh)]
      exact listed u (List.mem_cons_of_mem t member)

/-! ## One head -/

/-- A head as CANCEL leaves it: without its commit, where that shares a table with the table set (R104). -/
def cancelledHead (ts : TableSet) (head : Head) : Head := if sharesTable head ts then { head with armed := none } else head

/-- The answers of CANCEL for one head: its commit's, then its jobs' in table order, as the head and the jobs stand in `s`
(R104). -/
def answerCancelled (ts : TableSet) (s x : State) (h : HeadId) : State :=
  (setTables ts).foldl (fun y t => answerRemoved h t s.copy.jobs y)
    (if sharesTable (s.heads.get h) ts then answerArmed h (s.heads.get h).armed x else x)

theorem sharesTable_iff (head : Head) (ts : TableSet) :
    sharesTable head ts = true ↔ ∃ c t, head.armed = some c ∧ c.tables.get t = true ∧ ts.get t = true := by
  cases armed : head.armed with
  | none => simp [sharesTable, armedLists, armed]
  | some c => simp [sharesTable, armedLists, armed, and_comm]

theorem sharesTable_of_armed {head : Head} {c : ArmedCommit} (armed : head.armed = some c) (ts : TableSet) :
    sharesTable head ts = allTables.any fun t => c.tables.get t && ts.get t := by
  rw [sharesTable, setTables, List.any_filter]
  simp only [armedLists, armed, Bool.and_comm]

/-- A commit withdrawn shares no table with any set. -/
theorem cancelledHead_cancelledHead (ts : TableSet) (head : Head) :
    cancelledHead ts (cancelledHead ts head) = cancelledHead ts head := by
  by_cases shares : sharesTable head ts = true
  · simp [cancelledHead, shares]
  · simp [cancelledHead, shares]

/-- All that CANCEL's two steps for one head do, their answers apart. -/
theorem cancelHead_eq (ts : TableSet) (s : State) (h : HeadId) :
    cancelHead ts s h =
      { s with
        heads := s.heads.set h (cancelledHead ts (s.heads.get h))
        copy := { s.copy with jobs := s.copy.jobs.filter fun j => !(j.head == h && ts.get j.table) }
        answers := (cancelHead ts s h).answers } := by
  have same : s.heads.set h (s.heads.get h) = s.heads := perHead_ext fun k => by
    rw [perHead_get_set]
    split
    · rename_i same
      rw [same]
    · rfl
  conv => lhs; rw [cancelHead, removeJobs_eq]
  simp only [mem_setTables, Bool.decide_eq_true, cancelledHead]
  by_cases shares : sharesTable (s.heads.get h) ts = true
  · simp only [shares, if_true, withdraw_heads, withdraw_copy, cancelHead]
    rw [withdraw_eq]
  · simp only [shares, if_false, same, cancelHead, Bool.false_eq_true]

theorem cancelHead_sameAnswering (ts : TableSet) {s z x : State} (same : SameAnswering z x) {h : HeadId}
    (head : z.heads.get h = s.heads.get h) (listed : ∀ t, jobsOf z.copy.jobs h t = jobsOf s.copy.jobs h t) :
    SameAnswering (cancelHead ts z h) (answerCancelled ts s x h) := by
  refine removeJobs_sameAnswering (List.Nodup.filter _ (by decide)) ?_ fun t _ => ?_
  · rw [head]
    split
    · rw [← head]
      exact withdraw_sameAnswering same h
    · exact same
  · split
    · rw [withdraw_copy]
      exact listed t
    · exact listed t

/-! ## All masked heads -/

/-- The heads after CANCEL's steps (R104). -/
theorem cancelHeads_get (ts : TableSet) (l : List HeadId) (s : State) (k : HeadId) :
    (l.foldl (cancelHead ts) s).heads.get k = if k ∈ l then cancelledHead ts (s.heads.get k) else s.heads.get k := by
  induction l generalizing s with
  | nil => rfl
  | cons h l ih =>
    rw [List.foldl_cons, ih, cancelHead_eq, perHead_get_set]
    by_cases same : k = h
    · subst same
      simp [cancelledHead_cancelledHead]
    · simp [same]

/-- The jobs after CANCEL's steps (R104). -/
theorem cancelHeads_jobs (ts : TableSet) (l : List HeadId) (s : State) :
    (l.foldl (cancelHead ts) s).copy.jobs = s.copy.jobs.filter fun j => !(decide (j.head ∈ l) && ts.get j.table) := by
  induction l generalizing s with
  | nil => simp
  | cons h l ih =>
    rw [List.foldl_cons, ih, cancelHead_eq, List.filter_filter]
    refine List.filter_congr fun j _ => ?_
    by_cases ofHead : j.head = h
    · by_cases listed : h ∈ l <;> simp [ofHead, listed]
    · simp [ofHead]

/-- Nothing but heads, jobs and answers changes at CANCEL's steps. -/
theorem cancelHeads_frame (ts : TableSet) (l : List HeadId) (s : State) :
    { l.foldl (cancelHead ts) s with heads := s.heads, copy := s.copy, answers := s.answers } = s := by
  induction l generalizing s with
  | nil => rfl
  | cons h l ih =>
    have first : { cancelHead ts s h with heads := s.heads, copy := s.copy, answers := s.answers } = s := by
      rw [cancelHead_eq]
    exact (congrArg (fun x : State => { x with heads := s.heads, copy := s.copy, answers := s.answers })
      (ih (cancelHead ts s h))).trans first

/-- CANCEL's steps answer head by head, as the heads and the jobs stand before the first of them (R104). -/
theorem cancelHeads_sameAnswering (ts : TableSet) {l : List HeadId} (distinct : l.Nodup) {s z x : State} (same : SameAnswering z x)
    (head : ∀ h ∈ l, z.heads.get h = s.heads.get h)
    (listed : ∀ h ∈ l, ∀ t, jobsOf z.copy.jobs h t = jobsOf s.copy.jobs h t) :
    SameAnswering (l.foldl (cancelHead ts) z) (l.foldl (answerCancelled ts s) x) := by
  induction l generalizing z x with
  | nil => exact same
  | cons h l ih =>
    obtain ⟨fresh, distinct⟩ := List.nodup_cons.1 distinct
    refine ih distinct (cancelHead_sameAnswering ts same (head h List.mem_cons_self) (listed h List.mem_cons_self))
      (fun k member => ?_) fun k member t => ?_
    all_goals have other : k ≠ h := ne_of_mem_of_not_mem member fresh
    · rw [cancelHead_eq, perHead_get_set, if_neg other]
      exact head k (List.mem_cons_of_mem h member)
    · rw [← listed k (List.mem_cons_of_mem h member) t, cancelHead_eq, jobsOf, jobsOf, List.filter_filter]
      refine List.filter_congr fun j _ => ?_
      by_cases ofHead : j.head = k <;> simp [ofHead, other]

/-! ## The take (R104, R105) -/

/-- The heads whose commit CANCEL withdraws (R105). -/
def withdrawnMask (p : Packet) (s : State) : HeadMask :=
  .ofFn fun h => (packetMask p).get h && sharesTable (s.heads.get h) (tableSetOf (byteAt p.body 0))

theorem maskHeads_eq_nil_iff (m : HeadMask) : maskHeads m = [] ↔ m = ⟨false, false, false, false⟩ := by
  have all : ∀ a b c d : Bool, maskHeads ⟨a, b, c, d⟩ = [] ↔
      (⟨a, b, c, d⟩ : HeadMask) = ⟨false, false, false, false⟩ := by decide
  exact all m.h0 m.h1 m.h2 m.h3

theorem packetHeads_nodup (p : Packet) : (packetHeads p).Nodup := List.Nodup.filter _ (by decide)

/-- The state that CANCEL's take leaves, its own answer apart (R93, R104). -/
def cancelledState (p : Packet) (s : State) : State :=
  resumeCopy ((packetHeads p).foldl (cancelHead (tableSetOf (byteAt p.body 0))) s)

theorem cancelledState_get (p : Packet) (s : State) (h : HeadId) :
    (cancelledState p s).heads.get h =
      if (packetMask p).get h = true ∧ sharesTable (s.heads.get h) (tableSetOf (byteAt p.body 0)) = true then
        { s.heads.get h with armed := none }
      else s.heads.get h := by
  rw [cancelledState, resumeCopy_heads, cancelHeads_get]
  by_cases masked : (packetMask p).get h = true <;> simp [cancelledHead, masked]

theorem cancelledState_jobs (p : Packet) (s : State) :
    (cancelledState p s).copy.jobs =
      s.copy.jobs.filter fun j => !((packetMask p).get j.head && (tableSetOf (byteAt p.body 0)).get j.table) := by
  rw [cancelledState, resumeCopy_jobs, cancelHeads_jobs]
  simp

theorem cancelledState_frame (p : Packet) (s : State) :
    { cancelledState p s with heads := s.heads, copy := s.copy, answers := s.answers } = s := by
  rw [cancelledState, resumeCopy_eq]
  exact cancelHeads_frame _ _ s

/-- A copy in flight goes on while its job is listed, and is discarded otherwise (R93, R104). -/
theorem cancelledState_inFlight {p : Packet} {s : State} {c : SegmentCopy} (inFlight : s.copy.inFlight = some c) :
    (cancelledState p s).copy.inFlight =
      if hasJob (cancelledState p s).copy.jobs c.head c.table = true then some c
      else nextCopy (cancelledState p s).heads (cancelledState p s).copy.jobs := by
  have flying := (foldl_jobsDropped (packetHeads p) _ (cancelHead_jobsDropped (tableSetOf (byteAt p.body 0))) s).inFlight.trans
    inFlight
  rw [cancelledState, resumeCopy_jobs, resumeCopy_heads]
  split
  · rename_i listed
    exact resumeCopy_inFlight_of_listed flying listed
  · rename_i unlisted
    refine resumeCopy_inFlight_of_unlisted fun c' flying' => ?_
    cases flying.symm.trans flying'
    exact Bool.eq_false_iff.2 unlisted

theorem cancelledState_sameAnswering (p : Packet) (s : State) {x : State} (same : SameAnswering s x) :
    SameAnswering (cancelledState p s) ((packetHeads p).foldl (answerCancelled (tableSetOf (byteAt p.body 0)) s) x) := by
  rw [cancelledState, resumeCopy_eq]
  exact cancelHeads_sameAnswering _ (packetHeads_nodup p) same (fun _ _ => rfl) fun _ _ _ => rfl

/-- CANCEL with a table set that is not empty (R104, R105). -/
theorem ruleCancel_of_tables {p : Packet} {s : State} (tables : setTables (tableSetOf (byteAt p.body 0)) ≠ []) :
    ruleCancel p s =
      let removed := (namedPairs (packetHeads p) (tableSetOf (byteAt p.body 0))).filter fun q => hasJob s.copy.jobs q.1 q.2
      .carryOut
        (answerPacket p
          (if withdrawnMask p s = ⟨false, false, false, false⟩ ∧ removed = [] then .done else .cancelled)
          (maskByte (withdrawnMask p s) :: pairList removed) (cancelledState p s)) := by
  rw [ruleCancel, if_neg tables]
  simp only [← maskHeads_eq_nil_iff]
  rfl

/-- Settles O51: the heads, the jobs and the copy in flight after CANCEL's steps, and the answers head by head. -/
theorem cancelWithdrawsCommitsAndJobs : Obligations.CancelWithdrawsCommitsAndJobs := by
  intro s p rest takes masked tableSet tables shares cancelled removed
  have shares_iff (h : HeadId) :
      shares h ↔ (packetMask p).get h = true ∧ sharesTable (s.heads.get h) tableSet = true := by
    rw [sharesTable_iff]
  have answered : answerCancelled tableSet (afterTake rest s) = cancelled := by
    funext x h
    refine congrArg (fun y => (setTables tableSet).foldl (fun z t => answerRemoved h t s.copy.jobs z) y) ?_
    show (if sharesTable (s.heads.get h) tableSet then answerArmed h (s.heads.get h).armed x else x) = _
    cases armed : (s.heads.get h).armed with
    | none =>
      simp only [answerArmed]
      split <;> rfl
    | some c =>
      rw [sharesTable_of_armed armed]
      rfl
  have run := exec_takeOf_of_masked (v := .cancel) takes masked (ruleCancel_of_tables (s := afterTake rest s) tables)
  have head (h : HeadId) := cancelledState_get p (afterTake rest s) h
  rw [answerPacket_eq] at run
  refine ⟨_, run, fun h shared => ?_, fun h other => ?_, cancelledState_jobs p (afterTake rest s),
    fun c inFlight => cancelledState_inFlight (s := afterTake rest s) inFlight, cancelledState_frame p (afterTake rest s),
    withdrawnMask p (afterTake rest s), fun h => ?_, ?_⟩
  · exact (head h).trans (if_pos ((shares_iff h).1 shared))
  · exact (head h).trans (if_neg (mt (shares_iff h).2 other))
  · rw [shares_iff, withdrawnMask, perHead_get_ofFn, Bool.and_eq_true]
    rfl
  · rw [← answered, ← maskByte_eq]
    exact ((cancelledState_sameAnswering p (afterTake rest s) (x := s) ⟨rfl, rfl, rfl⟩).answerPacket p _ _).1

end Sys2Proof.Proofs
end

section
/-! SYNC and the segment copy, READ-TABLE, and the swap (R82 to R84, R89, R90, R92 to R94, R100, R198). -/

namespace Sys2Proof.Proofs

open Sys2Proof.Machine Sys2Proof.Safety Sys2Proof.Laws

/-! ## SYNC (R92, R93) -/

/-- The jobs a SYNC queues: one for each pair it names that is not READY (R92). -/
def syncJobs (p : Packet) (s : State) : List SyncJob :=
  ((namedPairs (packetHeads p) (tableSetOf (byteAt p.body 0))).filter fun q => shadowState s q.1 q.2 != .ready).map fun q =>
    { head := q.1, table := q.2, tag := p.header.tag, wanted := answerWanted p.header }

/-- The pair list of SYNC's DONE: the pairs that get a job, then those found READY (R198). -/
def syncBody (p : Packet) (s : State) : List Byte :=
  pairList ((namedPairs (packetHeads p) (tableSetOf (byteAt p.body 0))).filter fun q => shadowState s q.1 q.2 != .ready) ++
    pairList ((namedPairs (packetHeads p) (tableSetOf (byteAt p.body 0))).filter fun q => shadowState s q.1 q.2 == .ready)

/-- A state with jobs added behind those that stand (R92). -/
def jobsQueued (jobs : List SyncJob) (s : State) : State := { s with copy := { s.copy with jobs := s.copy.jobs ++ jobs } }

/-- A SYNC is accepted where none of its pairs is SYNCING or ARMED (R92). -/
theorem ruleSync_inv {p : Packet} {s s' : State} (carry : ruleSync p s = .carryOut s') :
    (∀ q ∈ namedPairs (packetHeads p) (tableSetOf (byteAt p.body 0)), shadowOccupied s q.1 q.2 = false) ∧
      s' = answerPacket p .done (syncBody p s) (resumeCopy (jobsQueued (syncJobs p s) s)) := by
  simp only [ruleSync, doneWith] at carry
  split_ifs at carry with empty occupied
  cases carry
  refine ⟨fun q named => Bool.eq_false_iff.2 fun busy => occupied (List.any_eq_true.2 ⟨q, named, busy⟩), rfl⟩

theorem ruleSync_of_free {p : Packet} {s : State} (tables : setTables (tableSetOf (byteAt p.body 0)) ≠ [])
    (free : ∀ q ∈ namedPairs (packetHeads p) (tableSetOf (byteAt p.body 0)), shadowOccupied s q.1 q.2 = false) :
    ruleSync p s = .carryOut (answerPacket p .done (syncBody p s) (resumeCopy (jobsQueued (syncJobs p s) s))) := by
  have unoccupied :
      ¬((namedPairs (packetHeads p) (tableSetOf (byteAt p.body 0))).any fun q => shadowOccupied s q.1 q.2) = true := by
    rw [List.any_eq_true]
    rintro ⟨q, named, busy⟩
    cases (free q named).symm.trans busy
  rw [ruleSync, if_neg tables, if_neg unoccupied]
  rfl

/-- Jobs that stand are still listed when others join. -/
theorem hasJob_append {jobs : List SyncJob} {h : HeadId} {t : Table} (listed : hasJob jobs h t = true) (more : List SyncJob) :
    hasJob (jobs ++ more) h t = true := by
  rw [hasJob_eq_true] at listed ⊢
  obtain ⟨j, member, named⟩ := listed
  exact ⟨j, List.mem_append_left more member, named⟩

/-- Settles O48: the rule queues its jobs, and the engine resumes. -/
theorem syncQueuesJobsForUncurrentPairs : Obligations.SyncQueuesJobsForUncurrentPairs := by
  intro s p rest takes masked tableSet named tables free wanting found pairs jobs
  have unoccupied (q : HeadId × Table) (member : q ∈ named) : shadowOccupied (afterTake rest s) q.1 q.2 = false :=
    (shadowOccupied_eq_false_iff s q.1 q.2).2 (free q member)
  have run := exec_takeOf_of_masked (v := .sync) takes masked (ruleSync_of_free (s := afterTake rest s) tables unoccupied)
  have answers := answerPacket_answers_congr p .done (syncBody p (afterTake rest s))
    (s := resumeCopy (jobsQueued (syncJobs p (afterTake rest s)) (afterTake rest s))) (s' := s)
    (resumeCopy_answers _) (by rw [resumeCopy_eq]; rfl) (by rw [resumeCopy_eq]; rfl)
  refine ⟨_, run, ?_, fun idle => ?_, fun c inFlight listed => ?_, ?_, answers⟩
  · rw [answerPacket_eq]
    exact resumeCopy_jobs _
  · rw [answerPacket_eq]
    exact resumeCopy_inFlight_of_unlisted (s := jobsQueued (syncJobs p (afterTake rest s)) (afterTake rest s))
      fun c inFlight => by cases idle.symm.trans inFlight
  · rw [answerPacket_eq]
    exact resumeCopy_inFlight_of_listed (s := jobsQueued (syncJobs p (afterTake rest s)) (afterTake rest s)) inFlight
      (hasJob_append listed _)
  · rw [answerPacket_eq, resumeCopy_eq]
    rfl

/-! ## The segment copy (R93, R94) -/

/-- The lowest segment that is not current: within the bank's shape, and the first that the coverage lacks (R93). -/
theorem lowestMissing_eq_some_iff (p : Pair) (seg : Nat) :
    lowestMissing p = some seg ↔ seg < p.shadow.length ∧ seg ∉ p.coverage ∧ ∀ x, x < seg → x ∈ p.coverage := by
  refine ⟨lowestMissing_eq_some, fun ⟨inBank, missing, lower⟩ => ?_⟩
  rw [lowestMissing, List.find?_range_eq_some]
  simpa using And.intro missing (And.intro inBank lower)

theorem nextCopy_eq_some_iff (heads : PerHead Head) (j : SyncJob) (rest : List SyncJob) (seg : Nat) :
    nextCopy heads (j :: rest) = some { head := j.head, table := j.table, segment := seg } ↔
      lowestMissing ((heads.get j.head).pairs.get j.table) = some seg := by
  rw [nextCopy_cons, Option.map_eq_some_iff]
  constructor
  · rintro ⟨low, lowest, same⟩
    cases same
    exact lowest
  · exact fun lowest => ⟨seg, lowest, rfl⟩

/-- A segment copy completion as one state: the segment stored, the full pair's job answered, and the next copy begun (R93,
R94). -/
theorem segmentCopyCompletion_of_job {s : State} {c : SegmentCopy} {j : SyncJob} {data : Segment}
    (inFlight : s.copy.inFlight = some c) (single : jobsOf s.copy.jobs c.head c.table = [j])
    (stored : ((s.heads.get c.head).pairs.get c.table).live[c.segment]? = some data) :
    let copied := storeSegment c.segment data ((s.heads.get c.head).pairs.get c.table)
    let heads := s.heads.set c.head
      { s.heads.get c.head with pairs := (s.heads.get c.head).pairs.set c.table copied }
    let jobs := if coverageFull copied = true then withoutJob s.copy.jobs c.head c.table else s.copy.jobs
    segmentCopyCompletion s =
      { s with
        heads := heads
        copy := { jobs := jobs, inFlight := nextCopy heads jobs }
        answers := if coverageFull copied = true then (answerJob j .done s).answers else s.answers } := by
  have copy : copySegment c.segment ((s.heads.get c.head).pairs.get c.table) =
      storeSegment c.segment data ((s.heads.get c.head).pairs.get c.table) := by simp only [copySegment, stored]
  have changed := changePair_pair c.head c.table (copySegment c.segment) s c.head c.table
  rw [if_pos ⟨rfl, rfl⟩, copy] at changed
  simp only [segmentCopyCompletion, inFlight, changed]
  split
  · simp only [single, List.foldl_cons, List.foldl_nil, answerJob, generate_eq]
    simp only [changePair, copy]
    rfl
  · simp only [changePair, copy]

/-- Settles O49: the engine's next copy by the oldest job's pair, and the completion as one state. -/
theorem segmentCopyBringsShadowUpToDate : Obligations.SegmentCopyBringsShadowUpToDate := by
  refine ⟨fun _ => rfl, fun seg l => ⟨fun x => mem_coverInsert seg x l, coverInsert_pairwise seg⟩, fun heads j rest seg => ?_,
    fun s c j data released inFlight single stored => ?_⟩
  · exact (nextCopy_eq_some_iff heads j rest seg).trans (lowestMissing_eq_some_iff _ seg)
  · have run : exec .segmentCopyCompletion s = .next (segmentCopyCompletion s) :=
      congrArg Host.Outcome.next (whileReleased_of_released _ released)
    rw [segmentCopyCompletion_of_job inFlight single stored] at run
    exact ⟨_, run, rfl, rfl, rfl, rfl, rfl⟩

/-! ## READ-TABLE (R89, R90, R198) -/

theorem boolByte_eq_ite (c : Prop) [Decidable c] {b : Bool} (same : b = true ↔ c) : boolByte b = if c then 1#8 else 0#8 := by
  simp only [boolByte, same]

/-- READ-TABLE of one head, of a table and a segment that it has (R89). -/
theorem ruleReadTable_of_fits {p : Packet} {s : State} {h : HeadId} {t : Table} (one : packetHeads p = [h])
    (table : tableOf (natAt p.body 0) = some t) (bank : natAt p.body 1 ≤ 1)
    (segment : natAt p.body 2 < segmentCount (s.heads.get h).timing t) :
    ruleReadTable p s =
      .carryOut (answerPacket p .done (readBody s h t (natAt p.body 1 == 1) (natAt p.body 2)) s) := by
  simp only [ruleReadTable, one, table, if_neg (Nat.not_lt.2 bank), if_neg (Nat.not_le.2 segment), doneWith]

/-- READ-TABLE's body, given the segment that is stored where it reads (R90, R198). -/
theorem readBody_of_stored {s : State} {h : HeadId} {t : Table} {shadow : Bool} {seg : Nat} {data : Segment}
    (stored : (if shadow then ((s.heads.get h).pairs.get t).shadow else ((s.heads.get h).pairs.get t).live)[seg]? = some data) :
    readBody s h t shadow seg =
      [byteOf (headIndex h), byteOf (tableCode t), boolByte shadow, byteOf seg, segmentForm data,
        boolByte (if shadow then ((s.heads.get h).pairs.get t).coverage.contains seg else true),
        if shadow then byteOf (shadowStateCode (shadowState s h t)) else 0xFF#8,
        byteOf (segmentEntries data)] ++ segmentBytes data := by
  simp only [readBody, List.getD_eq_getElem?_getD, stored, Option.getD_some]

/-- Settles O47: the form and the count by the segment's kind, and the body by the bank that is read. -/
theorem readTableReturnsStoredSegment : Obligations.ReadTableReturnsStoredSegment := by
  refine ⟨fun row => ?_, fun data other => ?_, ⟨fun _ => rfl, fun _ => rfl, fun _ => rfl, fun _ => rfl, fun _ => rfl⟩,
    fun s p rest h t data takes one table segment => ⟨fun live stored => ?_, fun shadow stored => ?_⟩⟩
  · exact boolByte_eq_ite _ (by simp [Option.isSome_iff_ne_none])
  · cases data with
    | blends row => exact absurd rfl (other row)
    | header h => rfl
    | points row => rfl
    | values entries => rfl
    | trim x => rfl
  all_goals
    have run := exec_takeOf_of_masked (v := .readTable) takes (by simp [one])
      (ruleReadTable_of_fits (s := afterTake rest s) one table (by omega) segment)
  · rw [show (natAt p.body 1 == 1) = false by simp [live], readBody_of_stored (s := afterTake rest s) stored] at run
    exact run
  · rw [show (natAt p.body 1 == 1) = true by simp [shadow], readBody_of_stored (s := afterTake rest s) stored] at run
    refine run.trans ?_
    rw [if_pos rfl, boolByte_eq_ite _ List.contains_iff_mem]
    rfl

/-! ## The swap (R100) -/

/-- Settles O22: the pairs of listed tables by `swapHead_pair`, everything else by definition. -/
theorem swapExchangesListedBanks : Obligations.SwapExchangesListedBanks := by
  intro c h
  refine ⟨fun t listed => ?_, fun t unlisted => ?_, rfl, rfl, rfl⟩
  · rw [swapHead_pair, if_pos listed]
    exact ⟨rfl, rfl, rfl⟩
  · rw [swapHead_pair, if_neg (by simp [unlisted])]

end Sys2Proof.Proofs
end

section
/-! Armed commits, sync jobs and quiet initialization at every command, and the live banks (R83, R85, R91, R100, R180, R182). -/

namespace Sys2Proof.Proofs

open Sys2Proof.Machine Sys2Proof.Safety Sys2Proof.Laws

/-! ## What keeps the commits sound -/

/-- A unit that is READY is not INITIALIZING. -/
theorem quiet_of_ready {s : State} (ready : s.control.state = .ready) : QuietWhileInitializing s := fun initializing => by
  cases ready.symm.trans initializing

/-- Commits stay sound where no job joins, and a table that is still listed keeps a wholly current shadow. -/
theorem commitsSound_of_fewer {s t : State} (jobs : t.copy.jobs.Sublist s.copy.jobs)
    (heads : ∀ k u, armedLists (t.heads.get k) u = true → armedLists (s.heads.get k) u = true ∧
      (coverageFull ((s.heads.get k).pairs.get u) = true → coverageFull ((t.heads.get k).pairs.get u) = true))
    (sound : CommitsSound s) : CommitsSound t := by
  obtain ⟨current, single⟩ := sound
  refine ⟨fun k u lists => ?_, single.sublist jobs⟩
  obtain ⟨listed, stays⟩ := heads k u lists
  obtain ⟨full, free⟩ := current k u listed
  refine ⟨stays full, Bool.eq_false_iff.2 fun job => Bool.eq_false_iff.1 free ?_⟩
  obtain ⟨j, member, named⟩ := (hasJob_eq_true _ _ _).1 job
  exact (hasJob_eq_true _ _ _).2 ⟨j, jobs.subset member, named⟩

/-- From `s` to `t` no job has joined, no commit is armed and no bank set anew, and a quiet initialization has stayed quiet. -/
structure CommitsKept (s t : State) : Prop where
  jobs : t.copy.jobs.Sublist s.copy.jobs
  heads : ∀ k, BanksChange (s.heads.get k) (t.heads.get k)
  quiet : QuietWhileInitializing s → QuietWhileInitializing t

theorem CommitsKept.sound {s t : State} (kept : CommitsKept s t) : CommitsSound s → CommitsSound t :=
  commitsSound_of_fewer kept.jobs fun k _ lists => (kept.heads k).armed lists

/-- A change of heads and jobs of a unit that is READY, or in which every quiet head stays quiet. -/
theorem commitsKept_of_heads {s t : State} (unit : t.control.state = s.control.state)
    (jobs : t.copy.jobs.Sublist s.copy.jobs) (banks : ∀ k, BanksChange (s.heads.get k) (t.heads.get k))
    (quiet : s.control.state = .ready ∨ ∀ k, StaysQuiet (s.heads.get k) (t.heads.get k)) : CommitsKept s t := by
  refine ⟨jobs, banks, fun before => ?_⟩
  obtain ready | quiet := quiet
  · exact quiet_of_ready (unit.trans ready)
  · intro initializing
    obtain ⟨parked, none⟩ := before (unit.symm.trans initializing)
    exact ⟨fun k => quiet k (parked k), List.sublist_nil.1 (none ▸ jobs)⟩

/-- A change of nothing but the heads, of the table side. -/
theorem commitsKept_of_sideHeads {s t : State} {heads : PerHead Head} (side : tableSide t = { tableSide s with heads := heads })
    (banks : ∀ k, BanksChange (s.heads.get k) (heads.get k))
    (quiet : s.control.state = .ready ∨ ∀ k, StaysQuiet (s.heads.get k) (heads.get k)) : CommitsKept s t := by
  have same : t.heads = heads := congrArg TableSide.heads side
  have copy : t.copy = s.copy := congrArg TableSide.copy side
  subst same
  exact commitsKept_of_heads (congrArg TableSide.unit side) (by rw [copy]) banks quiet

theorem commitsKept_of_side {s t : State} (side : tableSide t = tableSide s) : CommitsKept s t :=
  commitsKept_of_sideHeads (heads := s.heads) side (fun _ => banksChange_refl _) (.inr fun _ => id)

theorem commitsKept_refl (s : State) : CommitsKept s s := commitsKept_of_side rfl

theorem CommitsKept.congr {s t u : State} (kept : CommitsKept s t) (side : tableSide u = tableSide t) : CommitsKept s u := by
  have heads : u.heads = t.heads := congrArg TableSide.heads side
  have copy : u.copy = t.copy := congrArg TableSide.copy side
  exact ⟨by rw [copy]; exact kept.jobs, fun k => by rw [heads]; exact kept.heads k,
    fun quiet => (commitsKept_of_side side).quiet (kept.quiet quiet)⟩

/-! ## Events of the heads -/

theorem handToHeads_commitsKept {f : Head → HeadRun} {s r : State} (side : tableSide r = tableSide s)
    (event : ∀ h, EventChange h (f h).head) : CommitsKept s (handToHeads f r) := by
  have heads : r.heads = s.heads := congrArg TableSide.heads side
  have change (k : HeadId) :
      EventChange (s.heads.get k) ((PerHead.ofFn fun k => (f (r.heads.get k)).head).get k) := by
    rw [perHead_get_ofFn, heads]
    exact event _
  exact commitsKept_of_sideHeads ((tableSide_handToHeads f r).trans (by rw [side])) (fun k => (change k).banks)
    (.inr fun k => (change k).quiet)

theorem frameStart_commitsKept (frame : Byte) (width height : Half) (s : State) :
    CommitsKept s (frameStart frame width height s) := by
  unfold frameStart
  split
  · exact commitsKept_refl s
  · exact handToHeads_commitsKept rfl (takeFrameStart_eventChange _ _ _)

theorem lineCompletion_commitsKept (pixels : List Pixel) (s : State) : CommitsKept s (lineCompletion pixels s) := by
  unfold lineCompletion
  split
  · exact commitsKept_refl s
  · dsimp only
    split
    · exact handToHeads_commitsKept rfl (takeLine_eventChange _ _)
    · exact commitsKept_of_side rfl

theorem absenceExpiry_commitsKept (s : State) : CommitsKept s (absenceExpiry s) := by
  unfold absenceExpiry
  split
  · exact handToHeads_commitsKept rfl (takeAbsence_eventChange _)
  · exact commitsKept_refl s

theorem fillTimerExpiry_commitsKept (h : HeadId) (s : State) : CommitsKept s (fillTimerExpiry h s) := by
  unfold fillTimerExpiry
  split
  · rename_i due
    have event (k : HeadId) : EventChange (s.heads.get k) ((PerHead.ofFn fun k =>
        (if k = h then takeFillTimer (s.heads.get k) else beginRun (s.heads.get k)).head).get k) := by
      rw [perHead_get_ofFn]
      split
      · rename_i same
        subst same
        exact takeFillTimer_eventChange due.1
      · exact eventChange_refl _
    exact commitsKept_of_sideHeads (tableSide_runHeads _ s) (fun k => (event k).banks) (.inr fun k => (event k).quiet)
  · exact commitsKept_refl s

/-! ## Completions -/

/-- A head whose pairs alone have changed. -/
theorem eventChange_of_pairs {h h' : Head} (state : h'.state = h.state) (armed : h'.armed = h.armed)
    (pairs : ∀ t, PairKept (h.pairs.get t) (h'.pairs.get t)) : EventChange h h' :=
  ⟨.kept armed pairs, fun quiet => by rwa [state, armed]⟩

theorem storeOnHeads_eventChange (mask : HeadMask) (t : Table) (seg : Nat) (data : Segment) (hs : PerHead Head) (k : HeadId) :
    EventChange (hs.get k) ((storeOnHeads mask t seg data hs).get k) := by
  have pair := storeOnHeads_pair mask t seg data hs k
  refine eventChange_of_pairs ?_ ?_ fun u => ?_
  · rw [storeOnHeads_get]
    split <;> rfl
  · rw [storeOnHeads_get]
    split <;> rfl
  · rw [pair]
    split
    · rename_i stored
      obtain ⟨-, rfl⟩ := stored
      exact storeSegment_pairKept seg data _
    · exact pairKept_of_eq rfl

theorem writeCompletion_commitsKept (s : State) : CommitsKept s (writeCompletion s) := by
  unfold writeCompletion
  split
  · dsimp only
    split
    · refine CommitsKept.congr ?_ (tableSide_answerPacket _ _ _ _)
      exact commitsKept_of_heads rfl (List.Sublist.refl _) (fun k => (storeOnHeads_eventChange _ _ _ _ s.heads k).banks)
        (.inr fun k => (storeOnHeads_eventChange _ _ _ _ s.heads k).quiet)
    · exact commitsKept_of_heads rfl (List.Sublist.refl _) (fun _ => banksChange_refl _) (.inr fun _ => id)
  · exact commitsKept_refl s

theorem changePair_eventChange (h : HeadId) (t : Table) {f : Pair → Pair} (kept : ∀ p, PairKept p (f p)) (s : State)
    (k : HeadId) : EventChange (s.heads.get k) ((changePair h t f s).heads.get k) := by
  have pair := changePair_pair h t f s k
  refine eventChange_of_pairs ?_ ?_ fun u => ?_
  · simp only [changePair, perHead_get_set]
    split
    · rename_i same
      rw [same]
    · rfl
  · simp only [changePair, perHead_get_set]
    split
    · rename_i same
      rw [same]
    · rfl
  · rw [pair]
    split
    · rename_i same
      obtain ⟨rfl, rfl⟩ := same
      exact kept _
    · exact pairKept_of_eq rfl

theorem jobsAfterCopy_sublist (c : SegmentCopy) (s : State) : (jobsAfterCopy c s).Sublist s.copy.jobs := by
  unfold jobsAfterCopy
  split
  · exact List.filter_sublist
  · exact List.Sublist.refl _

theorem segmentCopyCompletion_commitsKept (s : State) : CommitsKept s (segmentCopyCompletion s) := by
  cases inFlight : s.copy.inFlight with
  | none =>
    simp only [segmentCopyCompletion, inFlight]
    exact commitsKept_refl s
  | some c =>
    have side := tableSide_segmentCopyCompletion inFlight
    have heads : (segmentCopyCompletion s).heads = (changePair c.head c.table (copySegment c.segment) s).heads :=
      congrArg TableSide.heads side
    have jobs : (segmentCopyCompletion s).copy.jobs = jobsAfterCopy c s := congrArg (fun x => x.copy.jobs) side
    have event := changePair_eventChange c.head c.table (copySegment_pairKept c.segment) s
    rw [← heads] at event
    exact commitsKept_of_heads (congrArg TableSide.unit side) (by rw [jobs]; exact jobsAfterCopy_sublist c s)
      (fun k => (event k).banks) (.inr fun k => (event k).quiet)

/-! ## Takes -/

/-- From `s` to `t`, commits have been armed and jobs queued as the invariants allow, in the banks as they were, and what followed
has kept them. -/
def CommitsChange (s t : State) : Prop :=
  ∃ r, (CommitsSound s → CommitsSound r) ∧ (QuietWhileInitializing s → QuietWhileInitializing r) ∧
    (∀ k, (r.heads.get k).pairs = (s.heads.get k).pairs) ∧ CommitsKept r t

theorem CommitsKept.change {s t : State} (kept : CommitsKept s t) : CommitsChange s t := ⟨s, id, id, fun _ => rfl, kept⟩

theorem CommitsChange.sound {s t : State} (change : CommitsChange s t) (inv : CommitsSound s ∧ QuietWhileInitializing s) :
    CommitsSound t ∧ QuietWhileInitializing t := by
  obtain ⟨r, sound, quiet, -, kept⟩ := change
  exact ⟨kept.sound (sound inv.1), kept.quiet (quiet inv.2)⟩

/-- A live bank stays, or is exchanged with its shadow under a commit that is consumed (R83, R100). -/
theorem CommitsChange.live {s t : State} (change : CommitsChange s t) (k : HeadId) (u : Table) :
    ((t.heads.get k).pairs.get u).live = ((s.heads.get k).pairs.get u).live ∨
      ((t.heads.get k).pairs.get u = swapPair ((s.heads.get k).pairs.get u) ∧ (t.heads.get k).armed = none ∧
        (t.heads.get k).committedFlag = true) := by
  obtain ⟨r, -, -, pairs, kept⟩ := change
  rw [← pairs k]
  exact (kept.heads k).live u

/-- Jobs join soundly for pairs that have neither a commit nor a job, one for each pair. -/
theorem jobsQueued_sound {s : State} {more : List SyncJob}
    (free : ∀ j ∈ more, armedLists (s.heads.get j.head) j.table = false ∧ hasJob s.copy.jobs j.head j.table = false)
    (single : more.Pairwise fun a b => ¬(a.head = b.head ∧ a.table = b.table)) (sound : CommitsSound s) :
    CommitsSound (jobsQueued more s) := by
  obtain ⟨current, standing⟩ := sound
  refine ⟨fun k u lists => ⟨(current k u lists).1, Bool.eq_false_iff.2 fun job => ?_⟩,
    List.pairwise_append.2 ⟨standing, single, fun a listed b added same => ?_⟩⟩
  · obtain ⟨j, member, rfl, rfl⟩ := (hasJob_eq_true _ _ _).1 job
    obtain listed | added := List.mem_append.1 member
    · exact Bool.eq_false_iff.1 (current _ _ lists).2 ((hasJob_eq_true _ _ _).2 ⟨j, listed, rfl, rfl⟩)
    · cases (free j added).1.symm.trans lists
  · exact Bool.eq_false_iff.1 (free b added).2 ((hasJob_eq_true _ _ _).2 ⟨a, listed, same⟩)

/-- The pairs that heads and tables name are named once each. -/
theorem namedPairs_nodup {hs : List HeadId} (distinct : hs.Nodup) (ts : TableSet) : (namedPairs hs ts).Nodup :=
  List.Nodup.product distinct (List.Nodup.filter _ (by decide))

section Rules
variable {p : Packet} {s s' : State} (ready : s.control.state = .ready)
include ready

/-- SET-TIMING withdraws its head's commit and keeps every bank (R77). -/
theorem ruleSetTiming_commitsKept (carry : ruleSetTiming p s = .carryOut s') : CommitsKept s s' := by
  simp only [ruleSetTiming] at carry
  split at carry
  · rename_i h one
    split_ifs at carry
    cases carry
    have unit := congrArg (fun x : State => x.control.state) (beginGeneration_frame p h s)
    refine commitsKept_of_heads unit (by rw [beginGeneration_jobs]; exact List.filter_sublist) (fun k => ?_) (.inl ready)
    rw [beginGeneration_heads, perHead_get_set]
    split
    · rename_i same
      subst same
      exact .withdrawn rfl rfl
    · exact banksChange_refl _
  · cases carry

/-- CANCEL withdraws commits and jobs, and keeps every bank (R104). -/
theorem ruleCancel_commitsKept (carry : ruleCancel p s = .carryOut s') : CommitsKept s s' := by
  have cancelled : CommitsKept s (cancelledState p s) := by
    have unit := congrArg (fun x : State => x.control.state) (cancelledState_frame p s)
    refine commitsKept_of_heads unit (by rw [cancelledState_jobs]; exact List.filter_sublist) (fun k => ?_) (.inl ready)
    rw [cancelledState_get]
    split
    · exact .withdrawn rfl rfl
    · exact banksChange_refl _
  simp only [ruleCancel] at carry
  split_ifs at carry
  all_goals
    cases carry
    exact cancelled.congr (tableSide_answerPacket _ _ _ _)

/-- STOP's heads park, some with a swap (R79, R81). -/
theorem ruleStop_commitsKept (carry : ruleStop p s = .carryOut s') : CommitsKept s s' := by
  simp only [ruleStop, Verdict.carryOut.injEq] at carry
  subst carry
  refine commitsKept_of_sideHeads (heads := .ofFn fun k => ((stopRuns p s).get k).head) ?_ (fun k => ?_) (.inl ready)
  · split <;> simp only [tableSide_answerSwaps, tableSide_answerPacket] <;> rfl
  · rw [perHead_get_ofFn, stopRuns_get]
    split
    · exact takeStop_banksChange _
    · exact banksChange_refl _

/-- Heads of a READY unit changed one by one. -/
theorem commitsKept_of_mapHeads {t : State} {f : HeadId → Head → Head}
    (side : tableSide t = { tableSide s with heads := s.heads.mapHeads f }) (kept : ∀ k h, BanksChange h (f k h)) :
    CommitsKept s t :=
  commitsKept_of_sideHeads side (fun k => by rw [perHead_get_mapHeads]; exact kept k _) (.inl ready)

/-- SYNC's jobs are for pairs without a commit or a job, one for each (R91, R92). -/
theorem ruleSync_commitsChange (carry : ruleSync p s = .carryOut s') : CommitsChange s s' := by
  obtain ⟨unoccupied, rfl⟩ := ruleSync_inv carry
  have resumed : CommitsKept (jobsQueued (syncJobs p s) s) (resumeCopy (jobsQueued (syncJobs p s) s)) :=
    commitsKept_of_heads (by rw [resumeCopy_eq]) (by rw [resumeCopy_jobs])
      (fun k => by rw [resumeCopy_heads]; exact banksChange_refl _) (.inl ready)
  refine ⟨jobsQueued (syncJobs p s) s, jobsQueued_sound (fun j added => ?_) ?_, fun _ => quiet_of_ready ready, fun _ => rfl,
    resumed.congr (tableSide_answerPacket _ _ _ _)⟩
  · obtain ⟨q, wanting, rfl⟩ := List.mem_map.1 added
    exact (shadowOccupied_iff s q.1 q.2).1 (unoccupied q (List.mem_of_mem_filter wanting))
  · refine List.pairwise_map.2 (((namedPairs_nodup (packetHeads_nodup p) _).filter _).imp fun distinct same => ?_)
    exact distinct (Prod.ext same.1 same.2)

/-- COMMIT arms tables that are READY, and some of them swap at once (R97, R98, R101). -/
theorem ruleCommit_commitsChange (carry : ruleCommit p s = .carryOut s') : CommitsChange s s' := by
  simp only [ruleCommit] at carry
  split_ifs at carry with empty guard armed notReady
  cases carry
  have side : tableSide (armedState p s) = { tableSide s with heads := armHeads p s.heads } := tableSide_answerPacket _ _ _ _
  have heads : (armedState p s).heads = armHeads p s.heads := congrArg TableSide.heads side
  have copy : (armedState p s).copy = s.copy := congrArg TableSide.copy side
  have unit : (armedState p s).control.state = .ready := (congrArg TableSide.unit side).trans ready
  have pairs (k : HeadId) : ((armedState p s).heads.get k).pairs = (s.heads.get k).pairs := by
    rw [heads, armHeads_get]
    split <;> rfl
  refine ⟨armedState p s, fun sound => ⟨fun k u lists => ?_, by rw [copy]; exact sound.2⟩, fun _ => quiet_of_ready unit, pairs,
    commitsKept_of_sideHeads (tableSide_runHeads (commitRun p) (armedState p s)) (fun k => ?_) (.inl unit)⟩
  · rw [copy, pairs]
    rw [heads, armHeads_get] at lists
    split at lists
    · rename_i masked
      have named : (k, u) ∈ namedPairs (packetHeads p) (commitOf p).tables :=
        mem_namedPairs.2 ⟨(mem_packetHeads p k).2 masked, lists⟩
      have current : shadowState s k u = .ready := by
        by_contra other
        exact notReady (List.any_eq_true.2 ⟨(k, u), named, bne_iff_ne.2 other⟩)
      obtain ⟨-, free, full⟩ := (shadowState_ready_iff s k u).1 current
      exact ⟨full, free⟩
    · exact sound.1 k u lists
  · rw [perHead_get_ofFn, commitRun]
    split
    · exact banksChange_of_event (swapWhen_keepsOrSwaps _ (beginRun _)) (swapWhen_keepsOrFlags _ (beginRun _))
    · exact banksChange_refl _

end Rules

/-- What a verb's rule carries out in a READY unit changes commits and banks soundly. -/
theorem ruleOf_commitsChange {v : Verb} {p : Packet} {s s' : State} (ready : s.control.state = .ready)
    (carry : ruleOf v p s = .carryOut s') : CommitsChange s s' := by
  have answered (o : OutcomeCode) (body : List Byte) {t : State} (kept : CommitsKept s t) :
      CommitsChange s (answerPacket p o body t) := (kept.congr (tableSide_answerPacket p o body t)).change
  have same {o : OutcomeCode} {body : List Byte} {t : State} (side : tableSide t = tableSide s) :
      CommitsChange s (answerPacket p o body t) := answered o body (commitsKept_of_side side)
  cases v with
  | clearFault =>
    simp only [ruleOf, ruleClearFault, doneWith] at carry
    split at carry <;> cases carry
    refine answered _ _ ?_
    by_cases counts : (byteAt p.body 0).getLsbD 3 = true
    · refine commitsKept_of_mapHeads (f := fun _ h => { h with missTotal := 0, shortFrames := 0 }) ready ?_
        fun _ _ => banksChange_of_same rfl rfl
      simp only [clearItems, tableSide, if_pos counts]
    · refine commitsKept_of_side ?_
      simp only [clearItems, tableSide, if_neg counts]
  | readStatus =>
    simp only [ruleOf, ruleReadStatus, doneWith] at carry
    split at carry <;> cases carry
    · refine answered _ _ ?_
      exact commitsKept_of_mapHeads (f := fun _ h => { h with parkedFlag := false, committedFlag := false, fillFlag := false })
        ready rfl fun _ _ => banksChange_of_same rfl rfl
    · exact (commitsKept_refl s).change
  | resetUnit =>
    cases carry
    have head (k : HeadId) := perHead_get_mapHeads resetUnitHead s.heads k
    refine CommitsKept.change ⟨List.nil_sublist _, fun k => ?_, fun _ _ => ⟨fun k => ?_, rfl⟩⟩
    · rw [head]
      exact .withdrawn rfl rfl
    · rw [head]
      exact ⟨rfl, rfl⟩
  | setTiming => exact (ruleSetTiming_commitsKept ready carry).change
  | start =>
    simp only [ruleOf, ruleStart, doneWith] at carry
    split at carry <;> cases carry
    refine answered _ _ ?_
    refine commitsKept_of_mapHeads (f := fun h head =>
      if (packetMask p).get h then startHead (s.receiver.state == .locked) head else head) ready rfl fun k h => ?_
    split
    · exact startHead_banksChange _ h
    · exact banksChange_refl h
  | stop => exact (ruleStop_commitsKept ready carry).change
  | writeTable =>
    obtain ⟨rfl, -⟩ := ruleWriteTable_inv carry
    refine CommitsKept.change ?_
    exact commitsKept_of_heads rfl (List.Sublist.refl _) (fun _ => banksChange_refl _) (.inl ready)
  | sync => exact ruleSync_commitsChange ready carry
  | commit => exact ruleCommit_commitsChange ready carry
  | cancel => exact (ruleCancel_commitsKept ready carry).change
  | _ =>
    -- The other seven verbs change nothing that the table side holds.
    simp only [ruleOf, ruleDiscover, ruleSetAccept, ruleSetLink, ruleSetIntake, ruleSetGuard, ruleSetReturn, ruleReadTable,
      doneWith] at carry
    (repeat' split at carry) <;> cases carry <;> exact same rfl

/-- A verb's take changes commits and banks soundly. -/
theorem takeVerb_commitsChange (v : Verb) (s : State) : CommitsChange s (takeVerb v (ruleOf v) s) := by
  obtain same | ⟨p, rest, -, ready, -, -, judged⟩ := takeVerb_cases v (ruleOf v) s
  · rw [same]
    exact (commitsKept_refl s).change
  · rw [judged]
    obtain ⟨-, form⟩ | ⟨-, ⟨o, refusal⟩ | ⟨s', carry, result⟩⟩ := judge_cases v (ruleOf v) p (afterTake rest s)
    · rw [form]
      exact (commitsKept_of_side (s := s) (tableSide_refuseForm p (afterTake rest s))).change
    · rw [refusal]
      exact (commitsKept_of_side (s := s) (tableSide_refuseTake o p (afterTake rest s))).change
    · rw [result]
      exact ruleOf_commitsChange (s := afterTake rest s) ready carry

/-! ## Every command but those that set banks anew -/

theorem whileReleased_commitsChange {f : State → State} {s : State} (change : CommitsChange s (f s)) :
    CommitsChange s (whileReleased f s) := whileReleased_induction (commitsKept_refl s).change change

theorem exec_takeOf_commitsChange {v : Verb} {s t : State} (run : exec (takeOf v) s = .next t) : CommitsChange s t := by
  rw [exec_takeOf] at run
  cases run
  exact whileReleased_commitsChange (takeVerb_commitsChange v s)

/-- Every command but power-on reset and the completions of initialization and generation changes commits and banks soundly. -/
theorem exec_commitsChange {c : Instr} {s t : State} (run : exec c s = .next t) (notReset : ∀ b, c ≠ .powerOnReset b)
    (notInitialization : c ≠ .initializationCompletion) (notGeneration : c ≠ .generationCompletion) : CommitsChange s t := by
  have kept {f : State → State} (kept : CommitsKept s (f s)) : CommitsChange s (whileReleased f s) :=
    whileReleased_commitsChange kept.change
  cases c with
  | powerOnReset broken => exact absurd rfl (notReset broken)
  | resetInputRelease carrier => cases run; exact (commitsKept_of_side (tableSide_releaseReset carrier s)).change
  | initializationCompletion => exact absurd rfl notInitialization
  | carrierUp => cases run; exact kept (commitsKept_of_side (tableSide_carrierUp s))
  | carrierLoss broken => cases run; exact kept (commitsKept_of_side (tableSide_carrierLoss broken s))
  | frameStart f w h => cases run; exact kept (frameStart_commitsKept f w h s)
  | malformedMarker bytes => cases run; exact kept (commitsKept_of_side (tableSide_malformedMarker bytes s))
  | lineCompletion pixels => cases run; exact kept (lineCompletion_commitsKept pixels s)
  | packetArrival bytes => cases run; exact kept (commitsKept_of_side (tableSide_packetArrival bytes s))
  | absenceExpiry => cases run; exact kept (absenceExpiry_commitsKept s)
  | fillTimerExpiry h => cases run; exact kept (fillTimerExpiry_commitsKept h s)
  | writeCompletion => cases run; exact kept (writeCompletion_commitsKept s)
  | generationCompletion => exact absurd rfl notGeneration
  | segmentCopyCompletion => cases run; exact kept (segmentCopyCompletion_commitsKept s)
  | sendStart => cases run; exact kept (commitsKept_of_side rfl)
  | sendCompletion held arrived => cases run; exact kept (commitsKept_of_side (tableSide_completeSend held arrived s))
  | relayArrival a => cases run; exact kept (commitsKept_of_side rfl)
  | holdBackRelease asserted => cases run; exact CommitsKept.change (commitsKept_of_side rfl)
  | unknownVerb => cases run; exact kept (commitsKept_of_side (tableSide_takeUnknown s))
  | discover => exact exec_takeOf_commitsChange (v := .discover) run
  | setAccept => exact exec_takeOf_commitsChange (v := .setAccept) run
  | setLink => exact exec_takeOf_commitsChange (v := .setLink) run
  | setIntake => exact exec_takeOf_commitsChange (v := .setIntake) run
  | setGuard => exact exec_takeOf_commitsChange (v := .setGuard) run
  | setReturn => exact exec_takeOf_commitsChange (v := .setReturn) run
  | clearFault => exact exec_takeOf_commitsChange (v := .clearFault) run
  | readStatus => exact exec_takeOf_commitsChange (v := .readStatus) run
  | resetUnit => exact exec_takeOf_commitsChange (v := .resetUnit) run
  | setTiming => exact exec_takeOf_commitsChange (v := .setTiming) run
  | start => exact exec_takeOf_commitsChange (v := .start) run
  | stop => exact exec_takeOf_commitsChange (v := .stop) run
  | writeTable => exact exec_takeOf_commitsChange (v := .writeTable) run
  | readTable => exact exec_takeOf_commitsChange (v := .readTable) run
  | sync => exact exec_takeOf_commitsChange (v := .sync) run
  | commit => exact exec_takeOf_commitsChange (v := .commit) run
  | cancel => exact exec_takeOf_commitsChange (v := .cancel) run

/-- Settles O52: every other command leaves a live bank or exchanges it with its shadow. -/
theorem liveBanksChangeOnlyBySwap : Obligations.LiveBanksChangeOnlyBySwap := fun _ _ _ h tb run notReset notInit notGeneration =>
  (exec_commitsChange run notReset notInit notGeneration).live h tb

/-! ## The commands that set banks anew -/

/-- Commits are sound, and an initialization is quiet. -/
def CommitsSoundAndQuiet (s : State) : Prop := CommitsSound s ∧ QuietWhileInitializing s

theorem CommitsSoundAndQuiet.congr {s t : State} (inv : CommitsSoundAndQuiet s) (side : tableSide t = tableSide s) :
    CommitsSoundAndQuiet t := (commitsKept_of_side side).change.sound inv

/-- Without commits and jobs, commits are sound. -/
theorem commitsSound_of_none {s : State} (unarmed : ∀ k, (s.heads.get k).armed = none) (jobs : s.copy.jobs = []) :
    CommitsSound s := ⟨fun k u lists => by simp [armedLists, unarmed k] at lists, by simp [jobs]⟩

theorem powerOn_commitsSoundAndQuiet (broken : Option ItemPart) (s : State) : CommitsSoundAndQuiet (powerOn broken s) := by
  have heads (k : HeadId) : (powerOn broken s).heads.get k = resetHead k := perHead_get_ofFn resetHead k
  exact ⟨commitsSound_of_none (fun k => by rw [heads]; rfl) rfl, fun _ => ⟨fun k => by rw [heads]; exact ⟨rfl, rfl⟩, rfl⟩⟩

/-- A unit that was quiet in its initialization has neither commits nor jobs when it is READY (R180, R182). -/
theorem initializationCompletion_commitsSoundAndQuiet {s : State} (inv : CommitsSoundAndQuiet s) :
    CommitsSoundAndQuiet (initializationCompletion s) := by
  unfold initializationCompletion
  split
  · rename_i initializing
    obtain ⟨parked, jobs⟩ := inv.2 initializing
    have ready : CommitsSoundAndQuiet (readyUnit s) := by
      refine ⟨commitsSound_of_none (fun k => ?_) jobs, quiet_of_ready rfl⟩
      rw [readyUnit, perHead_get_mapHeads]
      exact (parked k).2
    have finished := ready.congr (tableSide_finishInitialization s)
    obtain noTake | unknown | ⟨v, taken⟩ := takeOldest_cases (finishInitialization s)
    · rwa [noTake]
    · rw [unknown]
      exact finished.congr (tableSide_takeUnknown _)
    · rw [taken]
      exact (takeVerb_commitsChange v _).sound finished
  · exact inv

/-- Generated pairs are wholly current (R77). -/
theorem generatedPairs_full (p : Packet) (h : Head) (t : Table) (full : coverageFull (h.pairs.get t) = true) :
    coverageFull ((generatedPairs p h).get t) = true := by
  have fresh {bank : Bank} (shaped : bankShaped h.timing t bank) :
      coverageFull (freshPair bank (segmentCount h.timing t)) = true := by
    rw [coverageFull_eq_true]
    exact fun seg inBank => List.mem_range.2 (shaped.1 ▸ inBank)
  cases t with
  | mesh => exact fresh (identityMesh_shaped _ _ _ _ _)
  | blend => exact fresh (unityBlend_shaped _)
  | decode => exact full
  | encode => exact full
  | trim => exact full

/-- A generation changes pairs alone, and leaves wholly current shadows so (R77). -/
theorem generatedHead_get (p : Packet) (h : HeadId) (hs : PerHead Head) (k : HeadId) :
    ∃ pairs, (∀ u, coverageFull ((hs.get k).pairs.get u) = true → coverageFull (pairs.get u) = true) ∧
      (hs.set h { hs.get h with pairs := generatedPairs p (hs.get h) }).get k = { hs.get k with pairs := pairs } := by
  rw [perHead_get_set]
  split
  · rename_i same
    subst same
    exact ⟨_, generatedPairs_full p _, rfl⟩
  · exact ⟨(hs.get k).pairs, fun _ => id, rfl⟩

theorem generationCompletion_commitsSoundAndQuiet {s : State} (inv : CommitsSoundAndQuiet s) :
    CommitsSoundAndQuiet (generationCompletion s) := by
  unfold generationCompletion
  split
  · split
    · rename_i p _ _ h _
      refine CommitsSoundAndQuiet.congr ?_ (tableSide_answerPacket _ _ _ _)
      have head := generatedHead_get p h s.heads
      refine ⟨commitsSound_of_fewer (s := s) (List.Sublist.refl _) (fun k u lists => ?_) inv.1, fun initializing => ?_⟩
      · obtain ⟨pairs, full, same⟩ := head k
        rw [same] at lists ⊢
        exact ⟨lists, full u⟩
      · obtain ⟨parked, jobs⟩ := inv.2 initializing
        refine ⟨fun k => ?_, jobs⟩
        obtain ⟨pairs, -, same⟩ := head k
        rw [same]
        exact parked k
    · exact inv
  · exact inv

/-- Settles O56: three commands set banks anew, and every other one changes commits and banks soundly. -/
theorem armedShadowsStayWhollyCurrent : Obligations.ArmedShadowsStayWhollyCurrent := by
  refine step_keeps (Inv := CommitsSoundAndQuiet) (fun _ _ inv => inv) fun c s t inv run => ?_
  by_cases reset : ∃ b, c = .powerOnReset b
  · obtain ⟨broken, rfl⟩ := reset
    cases run
    exact powerOn_commitsSoundAndQuiet broken s
  by_cases initialization : c = .initializationCompletion
  · subst initialization
    cases run
    exact whileReleased_induction inv (initializationCompletion_commitsSoundAndQuiet inv)
  by_cases generation : c = .generationCompletion
  · subst generation
    cases run
    exact whileReleased_induction inv (generationCompletion_commitsSoundAndQuiet inv)
  exact (exec_commitsChange run (fun b same => reset ⟨b, same⟩) initialization generation).sound inv

end Sys2Proof.Proofs
end

section
/-! Segments as bytes, and back (R20, R21, R43, R45, R48, R56, R90, R193, R196). -/

namespace Sys2Proof.Proofs

open Sys2Proof.Machine Sys2Proof.Safety Sys2Proof.Laws

/-! ## Fields -/

section Fields
variable {bs : List Byte} {i : Nat}

/-- An unsigned field reads back from its two bytes. -/
theorem natAt2_of_bytes {n : Nat} (high : byteAt bs i = byteOf (n / 256)) (low : byteAt bs (i + 1) = byteOf n)
    (range : n < 65536) : natAt2 bs i = n := by
  rw [natAt2, natAt, natAt, high, low, fieldBytes_value, Nat.mod_eq_of_lt range]

/-- A signed two-byte field reads back from the bytes of its two's complement. -/
theorem intAt2_of_bytes {x : Int} (high : byteAt bs i = byteOf ((BitVec.ofInt 16 x).toNat / 256))
    (low : byteAt bs (i + 1) = byteOf (BitVec.ofInt 16 x).toNat) (lower : -32768 ≤ x) (upper : x < 32768) :
    intAt2 bs i = x := by
  rw [intAt2, natAt2_of_bytes high low (BitVec.ofInt 16 x).isLt, BitVec.ofNat_toNat, BitVec.setWidth_eq, BitVec.toInt_ofInt,
    Int.bmod_eq_of_le (by omega) (by omega)]

/-- A signed three-byte field reads back from the bytes of its two's complement. -/
theorem intAt3_of_bytes {x : Int} (high : byteAt bs i = byteOf ((BitVec.ofInt 24 x).toNat / 65536))
    (middle : byteAt bs (i + 1) = byteOf ((BitVec.ofInt 24 x).toNat / 256))
    (low : byteAt bs (i + 2) = byteOf (BitVec.ofInt 24 x).toNat) (lower : -8388608 ≤ x) (upper : x < 8388608) :
    intAt3 bs i = x := by
  have value : natAt bs i * 65536 + natAt2 bs (i + 1) = (BitVec.ofInt 24 x).toNat := by
    have range := (BitVec.ofInt 24 x).isLt
    rw [natAt2, natAt, natAt, natAt, high, middle, low, byteOf_toNat, byteOf_toNat, byteOf_toNat]
    omega
  rw [intAt3, value, BitVec.ofNat_toNat, BitVec.setWidth_eq, BitVec.toInt_ofInt, Int.bmod_eq_of_le (by omega) (by omega)]

end Fields

/-! ## Entries of one size -/

section Entries
variable {α : Type} {f : α → List Byte} {size : Nat}

theorem length_entries {row : List α} (sized : ∀ a ∈ row, (f a).length = size) :
    (row.flatMap f).length = row.length * size := by
  rw [List.length_flatMap, List.map_congr_left sized, List.map_const', List.sum_replicate, smul_eq_mul]

/-- An entry is cut from the bytes where it was put. -/
theorem entryBytes_flatMap {row : List α} (sized : ∀ a ∈ row, (f a).length = size) {i : Nat} {a : α} (at_i : row[i]? = some a) :
    entryBytes (row.flatMap f) size i = f a := by
  induction row generalizing i with
  | nil => cases at_i
  | cons b row ih =>
    have first : (f b).length = size := sized b List.mem_cons_self
    cases i with
    | zero =>
      cases at_i
      simp [entryBytes, ← first]
    | succ i =>
      have skipped : (i + 1) * size = (f b).length + i * size := by rw [first, Nat.succ_mul, Nat.add_comm]
      rw [← ih (fun c member => sized c (List.mem_cons_of_mem b member)) at_i, entryBytes, entryBytes, List.flatMap_cons, skipped,
        List.drop_length_add_append]

/-- Entries read back one by one. -/
theorem readEntries_flatMap {g : List Byte → α} {row : List α} (sized : ∀ a ∈ row, (f a).length = size)
    (back : ∀ a ∈ row, g (f a) = a) :
    ((List.range row.length).map fun i => g (entryBytes (row.flatMap f) size i)) = row := by
  refine List.ext_getElem (by simp) fun i inRange inRow => ?_
  rw [List.getElem_map, List.getElem_range, entryBytes_flatMap sized (List.getElem?_eq_getElem inRow)]
  exact back _ (List.getElem_mem inRow)

end Entries

/-! ## Segments -/

theorem readHeader_headerEntry {h : MeshHeader} (legal : segmentLegal .mesh (.header h)) : readHeader (headerEntry h) = h := by
  obtain ⟨ox, oy, wx, right, wy, bottom⟩ := legal
  have edge : (if natAt (headerEntry h) 8 = 1 then EdgePolicy.black else .extend) = h.edge := by
    cases policy : h.edge <;> simp [headerEntry, natBytes2, natAt, byteAt, policy]
  rw [readHeader, edge, natAt2_of_bytes (n := h.ox) rfl rfl (by omega), natAt2_of_bytes (n := h.oy) rfl rfl (by omega),
    natAt2_of_bytes (n := h.wx) rfl rfl (by omega), natAt2_of_bytes (n := h.wy) rfl rfl (by omega)]
  cases h
  simp only [clampHeader, MeshHeader.mk.injEq, and_true] at *
  omega

theorem clampInt_of_bounds {x lo hi : Int} (lower : lo ≤ x) (upper : x ≤ hi) : clampInt x lo hi = x := by
  rw [clampInt, min_eq_left upper, max_eq_right lower]

theorem readPoint_pointEntry {p : MeshPoint} (sx : -131072 ≤ p.sx ∧ p.sx ≤ 131071) (sy : -131072 ≤ p.sy ∧ p.sy ≤ 131071) :
    readPoint (pointEntry p) = p := by
  have blank : (byteAt (pointEntry p) 6).getLsbD 0 = p.blank := by
    show (boolByte p.blank).getLsbD 0 = p.blank
    cases p.blank <;> rfl
  rw [readPoint, blank, intAt3_of_bytes (x := p.sx) rfl rfl rfl (by omega) (by omega),
    intAt3_of_bytes (x := p.sy) rfl rfl rfl (by omega) (by omega)]
  rw [clampInt_of_bounds sx.1 sx.2, clampInt_of_bounds sy.1 sy.2]

theorem blendEntry_length (q : BlendPoint) : (blendEntry q).length = if q.lift.isSome then 4 else 2 := by
  unfold blendEntry
  cases q.lift <;> rfl

theorem readBlend_blendEntry {q : BlendPoint} (weight : q.weight ≤ 4096) (lift : ∀ l, q.lift = some l → l ≤ 4095) :
    readBlend q.lift.isSome (blendEntry q) = q := by
  obtain ⟨w, l⟩ := q
  have first : natAt2 (blendEntry ⟨w, l⟩) 0 = w := natAt2_of_bytes rfl rfl (by simp only at weight; omega)
  cases l with
  | none => simp only [readBlend, first, min_eq_left weight, Option.isSome_none, Bool.false_eq_true, if_false]
  | some l =>
    have inRange := lift l rfl
    have second : natAt2 (blendEntry ⟨w, some l⟩) 2 = l := natAt2_of_bytes rfl rfl (by omega)
    simp only [readBlend, first, second, min_eq_left weight, min_eq_left inRange, Option.isSome_some, if_true]

theorem readValue_natBytes2 {e : Nat} (inRange : e ≤ 65535) : natAt2 (natBytes2 e) 0 = e := natAt2_of_bytes rfl rfl (by omega)

theorem readTrim_trimEntries {x : Trim} (legal : segmentLegal .trim (.trim x)) : readTrim (trimEntries x) = x := by
  obtain ⟨⟨gainR, gainG, gainB⟩, ⟨lowR, highR, lowG, highG, lowB, highB⟩, fillR, fillG, fillB⟩ := legal
  rw [readTrim, natAt2_of_bytes (n := x.gain.r) rfl rfl (by omega), natAt2_of_bytes (n := x.gain.g) rfl rfl (by omega),
    natAt2_of_bytes (n := x.gain.b) rfl rfl (by omega), intAt2_of_bytes (x := x.offset.r) rfl rfl (by omega) (by omega),
    intAt2_of_bytes (x := x.offset.g) rfl rfl (by omega) (by omega),
    intAt2_of_bytes (x := x.offset.b) rfl rfl (by omega) (by omega),
    natAt2_of_bytes (n := x.fill.r) rfl rfl (by omega), natAt2_of_bytes (n := x.fill.g) rfl rfl (by omega),
    natAt2_of_bytes (n := x.fill.b) rfl rfl (by omega), min_eq_left gainR, min_eq_left gainG, min_eq_left gainB,
    clampInt_of_bounds lowR highR, clampInt_of_bounds lowG highG, clampInt_of_bounds lowB highB, min_eq_left fillR,
    min_eq_left fillG, min_eq_left fillB]

/-- The flags byte of a mesh point, as it stands in its row (R196). -/
theorem flagsByte_of_point {row : List MeshPoint} {i : Nat} {p : MeshPoint} (at_i : row[i]? = some p) :
    byteAt (segmentBytes (.points row)) (7 * i + 6) = boolByte p.blank := by
  have cut := byteAt_entryBytes (row.flatMap pointEntry) i (size := 7) (j := 6) (by decide)
  rw [entryBytes_flatMap (size := 7) (fun _ _ => rfl) at_i, Nat.mul_comm i] at cut
  exact cut.symm

/-- Settles O32: a list of entries of one size reads back entry by entry, and each kind of entry field by field. -/
theorem segmentBytesReadBackAsStored : Obligations.SegmentBytesReadBackAsStored := by
  refine ⟨fun h legal => ?_, fun row seg notHeader legal => ?_, fun row lifts seg legal form => ?_, fun entries seg legal => ?_,
    fun entries seg legal => ?_, fun x seg legal => ?_, fun h => ⟨rfl, rfl⟩, fun row => ⟨?_, fun i p at_i => ?_⟩,
    fun row lifts form => ?_, fun entries => ?_, fun x => rfl⟩
  · exact congrArg Segment.header (readHeader_headerEntry legal)
  · rw [readSegment, if_neg notHeader]
    refine congrArg Segment.points (readEntries_flatMap (fun _ _ => rfl) fun p member => ?_)
    obtain ⟨lowX, highX, lowY, highY⟩ := legal p member
    exact readPoint_pointEntry ⟨lowX, highX⟩ ⟨lowY, highY⟩
  · refine congrArg Segment.blends (readEntries_flatMap (fun q member => ?_) fun q member => ?_)
    · rw [blendEntry_length, form q member]
    · obtain ⟨weight, lift⟩ := legal q member
      rw [← form q member]
      exact readBlend_blendEntry weight lift
  · exact congrArg Segment.values (readEntries_flatMap (g := fun e => natAt2 e 0) (fun _ _ => rfl) fun e member =>
      readValue_natBytes2 (legal e member))
  · refine congrArg Segment.values (readEntries_flatMap (g := fun e => min (natAt2 e 0) 1023) (fun _ _ => rfl) fun e member => ?_)
    have inRange := legal e member
    rw [readValue_natBytes2 (by omega), min_eq_left inRange]
  · exact congrArg Segment.trim (readTrim_trimEntries legal)
  · exact length_entries fun _ _ => rfl
  · exact flagsByte_of_point at_i
  · exact length_entries fun q member => by rw [blendEntry_length, form q member]
  · exact length_entries fun _ _ => rfl

end Sys2Proof.Proofs
end

section
/-! Refusals at a take, and the verbs: their codes, their takes and their forms (R82, R135 to R137, R139, R140, R193, R195,
R196). -/

namespace Sys2Proof.Proofs

open Sys2Proof.Machine Sys2Proof.Safety Sys2Proof.Laws

/-! ## Verbs and their takes -/

theorem takeCommand_of_verb {p : Packet} {v : Verb} (verb : verbOf p.header.verb = some v) : takeCommand p = takeOf v := by
  simp only [takeCommand, verb]
  cases v <;> rfl

theorem takeCommand_of_unknown {p : Packet} (unknown : verbOf p.header.verb = none) : takeCommand p = .unknownVerb := by
  simp only [takeCommand, unknown]

theorem verbOf_verbCode (v : Verb) : verbOf (verbCode v) = some v := by cases v <;> rfl

/-- A code that is no verb's is unknown (R195). -/
theorem verbOf_eq_none {code : Byte} (unused : code ∉ allVerbs.map verbCode) : verbOf code = none := by
  rw [verbOf, List.find?_eq_none]
  intro v member same
  exact unused (List.mem_map.2 ⟨v, member, by simpa using same⟩)

/-- The body length of a verb whose body holds no counts (R195). -/
def fixedLength (v : Verb) : Option Nat := if v = .setAccept ∨ v = .writeTable then none else some (bodyLength v [])

theorem formCorrect_iff (v : Verb) (p : Packet) : formCorrect v p = true ↔ p.body.length = bodyLength v p.body := by
  simp [formCorrect]

theorem formCorrect_iff_of_fixed {v : Verb} {n : Nat} (fixed : fixedLength v = some n) (p : Packet) :
    formCorrect v p = true ↔ p.body.length = n := by
  have length : bodyLength v p.body = n := by cases v <;> cases fixed <;> rfl
  rw [formCorrect_iff, length]

/-! ## WRITE-TABLE's form (R196) -/

/-- The entry size that the codes of a WRITE-TABLE body name, 0 where they name none (R196). -/
def writeEntrySize (code form segment : Nat) : Nat :=
  match code with
  | 0 => if segment = 0 then 9 else 7
  | 1 => if form = 0 then 2 else if form = 1 then 4 else 0
  | 2 => 2
  | 3 => 2
  | 4 => 2
  | _ => 0

theorem entrySize_getD (code form segment : Nat) : (entrySize code form segment).getD 0 = writeEntrySize code form segment := by
  match code with
  | 0 => rfl
  | 1 =>
    show (if form = 0 then some 2 else if form = 1 then some 4 else none).getD 0 = _
    simp only [writeEntrySize]
    split_ifs <;> rfl
  | 2 => rfl
  | 3 => rfl
  | 4 => rfl
  | n + 5 =>
    rw [entrySize, tableOf_of_undefined (by omega)]
    rfl

theorem bodyLength_writeTable (body : List Byte) :
    bodyLength .writeTable body = 4 + natAt body 3 * writeEntrySize (natAt body 0) (natAt body 1) (natAt body 2) := by
  rw [← entrySize_getD]
  simp only [bodyLength]
  cases entrySize (natAt body 0) (natAt body 1) (natAt body 2) <;> rfl

/-! ## Masks and table sets (R82, R193) -/

theorem filter_cons_append {α : Type} (f : α → Bool) (a : α) (l : List α) :
    (a :: l).filter f = (if f a = true then [a] else []) ++ l.filter f := by
  rw [List.filter_cons]
  split <;> rfl

theorem packetMask_get (p : Packet) (h : HeadId) : (packetMask p).get h = p.header.flags.getLsbD (headIndex h) :=
  perHead_get_ofFn _ h

theorem tableSetOf_get (b : Byte) (t : Table) : (tableSetOf b).get t = b.getLsbD (tableCode t) := perTable_get_ofFn _ t

theorem packetHeads_eq (p : Packet) :
    packetHeads p =
      (if p.header.flags.getLsbD 0 = true then [HeadId.h0] else []) ++ (if p.header.flags.getLsbD 1 = true then [.h1] else []) ++
        (if p.header.flags.getLsbD 2 = true then [.h2] else []) ++ (if p.header.flags.getLsbD 3 = true then [.h3] else []) := by
  simp only [packetHeads, maskHeads, allHeads, filter_cons_append, packetMask_get, headIndex, List.filter_nil, List.append_nil,
    List.append_assoc]

theorem setTables_tableSetOf (b : Byte) :
    setTables (tableSetOf b) =
      (if b.getLsbD 0 = true then [Table.mesh] else []) ++ (if b.getLsbD 1 = true then [.blend] else []) ++
        (if b.getLsbD 2 = true then [.decode] else []) ++ (if b.getLsbD 3 = true then [.encode] else []) ++
        (if b.getLsbD 4 = true then [.trim] else []) := by
  simp only [setTables, allTables, filter_cons_append, tableSetOf_get, tableCode, List.filter_nil, List.append_nil,
    List.append_assoc]

/-! ## Refusals -/

section Due
variable {s : State} {p : Packet} {rest : List Packet} (released : s.control.resetInput = false) (idle : s.loader.state = .idle)
  (ready : s.control.state = .ready) (queue : s.intake.queue = p :: rest)
include released idle ready queue

theorem exec_unknownVerb_of_due (unknown : verbOf p.header.verb = none) :
    exec .unknownVerb s = .next (refuseForm p (afterTake rest s)) := by
  have taken : takeUnknown s = refuseForm p (afterTake rest s) := by
    simp only [takeUnknown, nextTake_of_due idle ready queue, unknown, if_true]
  show Host.Outcome.next (whileReleased takeUnknown s) = _
  rw [whileReleased_of_released _ released, taken]

/-- A due take of a known verb is judged. -/
theorem exec_takeCommand_of_due {v : Verb} (verb : verbOf p.header.verb = some v) :
    exec (takeCommand p) s = .next (judge v (ruleOf v) p (afterTake rest s)) := by
  rw [takeCommand_of_verb verb, exec_takeOf, whileReleased_of_released _ released]
  simp only [takeVerb, nextTake_of_due idle ready queue, verb, if_true]

end Due

/-- The table of verbs: code, verb, take, whether it is a head verb, and body length where no counts set it (R135, R136, R195). -/
def verbTable : List (Byte × Verb × Instr × Bool × Option Nat) :=
  allVerbs.map fun v => (verbCode v, v, takeOf v, isHeadVerb v, fixedLength v)

/-- Settles O35: the refusals by the judgements of a take, the verbs by their table, and the masks bit by bit. -/
theorem refusedTakesOnlyRecordAndAnswer : Obligations.RefusedTakesOnlyRecordAndAnswer := by
  refine ⟨fun o p s => ⟨rfl, ?_⟩, fun s p rest released idle ready queue => ⟨fun unknown => ?_, fun v verb form => ?_,
    fun v verb form ofHeads unmasked => ?_⟩, ⟨fun code v c ofHeads fixed member => ?_, fun code unused => ?_,
    fun p => formCorrect_iff .setAccept p, fun p => ?_⟩, packetHeads_eq, setTables_tableSetOf, ⟨rfl, rfl⟩, packetMask_get,
    tableSetOf_get, mem_setTables⟩
  · rw [refuseTake_eq]
    exact ⟨rfl, rfl, rfl, rfl, rfl, rfl, rfl⟩
  · exact exec_unknownVerb_of_due released idle ready queue unknown
  · rw [exec_takeCommand_of_due released idle ready queue verb, judge, if_pos form]
    rfl
  · rw [exec_takeCommand_of_due released idle ready queue verb, judge, if_neg (by simp [form]), if_pos ⟨ofHeads, unmasked⟩]
  · obtain ⟨w, -, same⟩ := List.mem_map.1 (show (code, v, c, ofHeads, fixed) ∈ verbTable from member)
    cases same
    exact ⟨verbOf_verbCode v, rfl, fun p verb => takeCommand_of_verb (verb ▸ verbOf_verbCode v),
      fun n fixed p => formCorrect_iff_of_fixed fixed p⟩
  · have unknown := verbOf_eq_none (show code ∉ allVerbs.map verbCode from unused)
    exact ⟨unknown, fun p verb => takeCommand_of_unknown (verb ▸ unknown)⟩
  · have form := formCorrect_iff .writeTable p
    rw [bodyLength_writeTable] at form
    exact form

end Sys2Proof.Proofs
end

section
/-! READ-STATUS: the status body part by part, the shadow states, and the take (R84, R85, R188 to R191, R199). -/

namespace Sys2Proof.Proofs

open Sys2Proof.Machine Sys2Proof.Safety Sys2Proof.Laws

/-! ## Shadow states (R85) -/

theorem armedLists_iff (h : Head) (t : Table) : armedLists h t = true ↔ ∃ c, h.armed = some c ∧ c.tables.get t = true := by
  unfold armedLists
  cases h.armed <;> simp

section Shadow
variable {s : State} {h : HeadId} {t : Table}

theorem shadowState_of_armed (armed : armedLists (s.heads.get h) t = true) : shadowState s h t = .armed := by
  simp only [shadowState, armed, if_true]

variable (unarmed : ¬armedLists (s.heads.get h) t = true)
include unarmed

theorem shadowState_of_job (job : hasJob s.copy.jobs h t = true) : shadowState s h t = .syncing := by
  simp only [shadowState, if_neg unarmed, job, if_true]

variable (idle : ¬hasJob s.copy.jobs h t = true)
include idle

theorem shadowState_of_full (full : coverageFull ((s.heads.get h).pairs.get t) = true) : shadowState s h t = .ready := by
  simp only [shadowState, if_neg unarmed, if_neg idle, full, if_true]

variable (lacks : ¬coverageFull ((s.heads.get h).pairs.get t) = true)
include lacks

theorem shadowState_of_part (covers : ((s.heads.get h).pairs.get t).coverage ≠ []) : shadowState s h t = .part := by
  simp only [shadowState, if_neg unarmed, if_neg idle, if_neg lacks, if_neg covers]

theorem shadowState_of_stale (empty : ((s.heads.get h).pairs.get t).coverage = []) : shadowState s h t = .stale := by
  simp only [shadowState, if_neg unarmed, if_neg idle, if_neg lacks, if_pos empty]

end Shadow

/-- The state of a shadow is that of the first condition of R85 that holds. -/
theorem shadowState_by_conditions (s : State) (h : HeadId) (t : Table) :
    let pair := (s.heads.get h).pairs.get t
    let armed := ∃ c, (s.heads.get h).armed = some c ∧ c.tables.get t = true
    let job := hasJob s.copy.jobs h t = true
    let full := coverageFull pair = true
    (armed → shadowState s h t = .armed) ∧
      (¬armed → job → shadowState s h t = .syncing) ∧
      (¬armed → ¬job → full → shadowState s h t = .ready) ∧
      (¬armed → ¬job → ¬full → pair.coverage ≠ [] → shadowState s h t = .part) ∧
      (¬armed → ¬job → ¬full → pair.coverage = [] → shadowState s h t = .stale) := by
  dsimp only
  rw [← armedLists_iff]
  exact ⟨shadowState_of_armed, shadowState_of_job, shadowState_of_full, shadowState_of_part, shadowState_of_stale⟩

/-! ## Parts of a list of bytes -/

theorem slice_first {x c : List Byte} {n : Nat} (length : x.length = n) : ((x ++ c).drop 0).take n = x := by
  subst length
  simp

/-- What stands behind a list is cut out past the list's end. -/
theorem slice_skip {a y : List Byte} {k : Nat} (length : a.length = k) (i n : Nat) :
    ((a ++ y).drop (k + i)).take n = (y.drop i).take n := by
  subst length
  rw [List.drop_length_add_append]

/-- A part of a part is a part of the whole. -/
theorem slice_slice {bs x : List Byte} {k n : Nat} (part : (bs.drop k).take n = x) {i m : Nat} (inPart : i + m ≤ n) :
    (bs.drop (k + i)).take m = (x.drop i).take m := by
  rw [← part, List.drop_take, List.take_take, List.drop_drop, min_eq_left (by omega)]

/-- A byte of a part is a byte of the whole. -/
theorem byteAt_slice {bs x : List Byte} {k n : Nat} (part : (bs.drop k).take n = x) {i : Nat} (inPart : i < n) :
    byteAt bs (k + i) = byteAt x i := by
  subst part
  simp [byteAt, List.getD, List.getElem?_drop, inPart]

/-! ## The parts of the status body (R189, R190, R199) -/

/-- The bytes of unit control, the link receiver and the health monitor in the status body. -/
def statusLink (s : State) : List Byte :=
  [byteOf (unitStateCode s.control.state), boolByte s.control.startUp, hopByte s.filter.hop,
    byteOf (linkStateCode s.receiver.state), s.receiver.frame, byteOf (s.receiver.width / 256), byteOf s.receiver.width,
    byteOf (s.receiver.height / 256), byteOf s.receiver.height, byteOf (s.health.errors / 256), byteOf s.health.errors,
    byteOf (confinementCode (confinement s)), boolByte s.health.warn]

/-- The bytes of the guard, the intake queue and the answer side in the status body. -/
def statusQueues (s : State) : List Byte :=
  [byteOf (guardModeCode s.fault.guard), byteOf s.intake.queue.length, boolByte (decide (3 ≤ s.intake.queue.length)),
    byteOf (intakeModeCode s.intake.mode), byteOf s.intake.lost, byteOf s.answers.own.length, byteOf s.answers.relay.length,
    byteOf s.answers.lost, byteOf (mergeModeCode s.answers.mode)]

theorem faultBlock_of_empty {r : FaultRecord} (empty : r.entry = none) : faultBlock r = List.replicate 11 0#8 := by
  simp only [faultBlock, empty]

theorem faultBlock_of_occupied {r : FaultRecord} {e : FaultEntry} (occupied : r.entry = some e) :
    faultBlock r =
      [1#8, byteOf (faultKindCode e.kind), boolByte e.complete] ++ headerBytes e.header ++ [e.frame, byteOf e.overflow] := by
  simp only [faultBlock, occupied]

theorem faultBlock_length (r : FaultRecord) : (faultBlock r).length = 11 := by
  unfold faultBlock
  cases r.entry <;> rfl

theorem refusalBlock_length (r : Option LastRefusal) : (refusalBlock r).length = 5 := by cases r <;> rfl

theorem armedBlock_length (absent : ArmedCommit → Byte) (c : Option ArmedCommit) : (armedBlock absent c).length = 4 := by
  cases c <;> rfl

theorem statusUnit_eq (s : State) :
    statusUnit s =
      statusLink s ++ (faultBlock s.fault ++ (statusQueues s ++
        (refusalBlock s.loader.lastRefusal ++ [byteOf s.copy.jobs.length]))) := by
  simp only [statusUnit, List.append_assoc]
  rfl

theorem statusUnit_length (s : State) : (statusUnit s).length = 39 := by
  rw [statusUnit_eq]
  simp [faultBlock_length, refusalBlock_length, statusLink, statusQueues]

theorem statusHead_length (s : State) (h : HeadId) : (statusHead s h).length = 23 := by
  simp [statusHead, armedBlock_length, allTables, natBytes2]

theorem statusBody_length (s : State) : (statusBody s).length = 131 := by
  rw [statusBody, List.length_append, statusUnit_length, length_entries fun h _ => statusHead_length s h]
  rfl

section Body
variable (s : State)

theorem statusBody_eq :
    statusBody s =
      statusLink s ++ (faultBlock s.fault ++ (statusQueues s ++ (refusalBlock s.loader.lastRefusal ++
        ([byteOf s.copy.jobs.length] ++ allHeads.flatMap (statusHead s))))) := by
  simp only [statusBody, statusUnit_eq, List.append_assoc]

theorem statusBody_link : ((statusBody s).drop 0).take 13 = statusLink s := by
  rw [statusBody_eq]
  exact slice_first rfl

/-- The body past its first thirteen bytes. -/
theorem statusBody_past_link (i n : Nat) :
    ((statusBody s).drop (13 + i)).take n =
      ((faultBlock s.fault ++ (statusQueues s ++ (refusalBlock s.loader.lastRefusal ++
        ([byteOf s.copy.jobs.length] ++ allHeads.flatMap (statusHead s))))).drop i).take n := by
  rw [statusBody_eq]
  exact slice_skip (a := statusLink s) (k := 13) rfl i n

theorem statusBody_fault : ((statusBody s).drop 13).take 11 = faultBlock s.fault :=
  (statusBody_past_link s 0 11).trans (slice_first (faultBlock_length _))

/-- The body past the fault block. -/
theorem statusBody_past_fault (i n : Nat) :
    ((statusBody s).drop (13 + (11 + i))).take n =
      ((statusQueues s ++ (refusalBlock s.loader.lastRefusal ++
        ([byteOf s.copy.jobs.length] ++ allHeads.flatMap (statusHead s)))).drop i).take n :=
  (statusBody_past_link s (11 + i) n).trans (slice_skip (faultBlock_length _) i n)

theorem statusBody_queues : ((statusBody s).drop 24).take 9 = statusQueues s :=
  (statusBody_past_fault s 0 9).trans (slice_first rfl)

/-- The body past the bytes of the queues. -/
theorem statusBody_past_queues (i n : Nat) :
    ((statusBody s).drop (13 + (11 + (9 + i)))).take n =
      ((refusalBlock s.loader.lastRefusal ++ ([byteOf s.copy.jobs.length] ++ allHeads.flatMap (statusHead s))).drop i).take n :=
  (statusBody_past_fault s (9 + i) n).trans (slice_skip (a := statusQueues s) (k := 9) rfl i n)

theorem statusBody_refusal : ((statusBody s).drop 33).take 5 = refusalBlock s.loader.lastRefusal :=
  (statusBody_past_queues s 0 5).trans (slice_first (refusalBlock_length _))

theorem statusBody_jobs : ((statusBody s).drop 38).take 1 = [byteOf s.copy.jobs.length] :=
  (statusBody_past_queues s 5 1).trans ((slice_skip (refusalBlock_length _) 0 1).trans (slice_first rfl))

variable (h : HeadId)

theorem statusBody_head : ((statusBody s).drop (39 + 23 * headIndex h)).take 23 = statusHead s h := by
  have place : allHeads[headIndex h]? = some h := by cases h <;> rfl
  rw [statusBody, slice_skip (statusUnit_length s), Nat.mul_comm]
  exact entryBytes_flatMap (fun k _ => statusHead_length s k) place

end Body

/-! ## The parts of a head's block (R190, R199) -/

/-- The two bytes of a table's shadow in a head's block. -/
def statusShadow (s : State) (h : HeadId) (t : Table) : List Byte :=
  [byteOf (shadowStateCode (shadowState s h t)), byteOf ((s.heads.get h).pairs.get t).coverage.length]

/-- The bytes of a head's counts and event flags in its block. -/
def statusCounts (head : Head) : List Byte :=
  [byteOf (head.missLatched / 256), byteOf head.missLatched, byteOf (head.missTotal / 256), byteOf head.missTotal,
    byteOf (head.shortFrames / 256), byteOf head.shortFrames, eventFlagsByte head]

/-- The four bytes of a head's armed commit in its block. -/
def statusArmed (s : State) (h : HeadId) : List Byte :=
  armedBlock (fun c => Config.absentFrameTag (headIndex h) c.tag s.turn) (s.heads.get h).armed

theorem statusArmed_of_none {s : State} {h : HeadId} (none : (s.heads.get h).armed = none) :
    statusArmed s h = List.replicate 4 0#8 := by simp only [statusArmed, armedBlock, none]

theorem statusArmed_of_some {s : State} {h : HeadId} {c : ArmedCommit} (armed : (s.heads.get h).armed = some c) :
    statusArmed s h =
      [1#8, tableSetByte c.tables, boolByte c.frameTag.isSome,
        c.frameTag.getD (Config.absentFrameTag (headIndex h) c.tag s.turn)] := by simp only [statusArmed, armedBlock, armed]

section HeadBlock
variable (s : State) (h : HeadId)

theorem statusHead_eq :
    statusHead s h =
      [byteOf (headStateCode (s.heads.get h).state), boolByte (s.heads.get h).stopPending] ++
        (statusArmed s h ++ (allTables.flatMap (statusShadow s h) ++ statusCounts (s.heads.get h))) := by
  simp only [statusHead, List.append_assoc]
  rfl

theorem statusHead_state :
    ((statusHead s h).drop 0).take 2 = [byteOf (headStateCode (s.heads.get h).state), boolByte (s.heads.get h).stopPending] := by
  rw [statusHead_eq]
  exact slice_first rfl

theorem statusHead_past_state (i n : Nat) :
    ((statusHead s h).drop (2 + i)).take n =
      ((statusArmed s h ++ (allTables.flatMap (statusShadow s h) ++ statusCounts (s.heads.get h))).drop i).take n := by
  rw [statusHead_eq]
  exact slice_skip (a := [_, _]) (k := 2) rfl i n

theorem statusHead_armed : ((statusHead s h).drop 2).take 4 = statusArmed s h :=
  (statusHead_past_state s h 0 4).trans (slice_first (armedBlock_length _ _))

theorem statusHead_past_armed (i n : Nat) :
    ((statusHead s h).drop (2 + (4 + i))).take n =
      ((allTables.flatMap (statusShadow s h) ++ statusCounts (s.heads.get h)).drop i).take n :=
  (statusHead_past_state s h (4 + i) n).trans (slice_skip (armedBlock_length _ _) i n)

theorem statusHead_shadow (t : Table) : ((statusHead s h).drop (6 + 2 * tableCode t)).take 2 = statusShadow s h t := by
  have place : allTables[tableCode t]? = some t := by cases t <;> rfl
  have within : tableCode t < 5 := by cases t <;> decide
  have shadows : ((statusHead s h).drop 6).take 10 = allTables.flatMap (statusShadow s h) :=
    (statusHead_past_armed s h 0 10).trans (slice_first rfl)
  rw [slice_slice shadows (by omega), Nat.mul_comm]
  exact entryBytes_flatMap (size := 2) (fun _ _ => rfl) place

theorem statusHead_counts : ((statusHead s h).drop 16).take 7 = statusCounts (s.heads.get h) :=
  (statusHead_past_armed s h 10 7).trans ((slice_skip (k := 10) rfl 0 7).trans (by rfl))

/-- A part of a head's block is a part of the body. -/
theorem statusBody_headPart {x : List Byte} {i n : Nat} (part : ((statusHead s h).drop i).take n = x) (inBlock : i + n ≤ 23) :
    ((statusBody s).drop (39 + 23 * headIndex h + i)).take n = x :=
  (slice_slice (statusBody_head s h) inBlock).trans part

end HeadBlock

/-! ## Codes and bytes of a status body (R199) -/

theorem boolByte_toNat (b : Bool) : (boolByte b).toNat = if b = true then 1 else 0 := by cases b <;> rfl

theorem hopByte_eq (hop : Option Byte) : hopByte hop = hop.getD 255#8 := by cases hop <;> rfl

theorem confinementByte_toNat (errors : Nat) :
    (byteOf (confinementCode (confinementOf errors))).toNat = if errors < 128 then 0 else if errors ≤ 255 then 1 else 2 := by
  unfold confinementOf
  split_ifs <;> rfl

theorem eventFlagsByte_toNat (h : Head) :
    (eventFlagsByte h).toNat =
      (if h.parkedFlag = true then 1 else 0) + 2 * (if h.committedFlag = true then 1 else 0) +
        4 * (if h.fillFlag = true then 1 else 0) := by
  unfold eventFlagsByte
  cases h.parkedFlag <;> cases h.committedFlag <;> cases h.fillFlag <;> rfl

/-- A table set's byte has the set's bits, and no other (R193, R199, assumption 25). -/
theorem tableSetByte_bits (ts : TableSet) :
    (∀ t, (tableSetByte ts).getLsbD (tableCode t) = ts.get t) ∧ (tableSetByte ts).toNat < 32 := by
  have all : ∀ a b c d e : Bool,
      (∀ t ∈ allTables, (tableSetByte ⟨a, b, c, d, e⟩).getLsbD (tableCode t) = PerTable.get ⟨a, b, c, d, e⟩ t) ∧
        (tableSetByte ⟨a, b, c, d, e⟩).toNat < 32 := by decide
  obtain ⟨bits, top⟩ := all ts.mesh ts.blend ts.decode ts.encode ts.trim
  exact ⟨fun t => bits t (mem_allTables t), top⟩

/-- The value of a byte of a part, as a byte of the whole. -/
theorem natAt_slice {bs x : List Byte} {k n : Nat} (part : (bs.drop k).take n = x) {i : Nat} (inPart : i < n) :
    natAt bs (k + i) = (byteAt x i).toNat := congrArg BitVec.toNat (byteAt_slice part inPart)

/-- The value of a two-byte field of a part, as a field of the whole. -/
theorem field_slice {bs x : List Byte} {k n : Nat} (part : (bs.drop k).take n = x) {i v : Nat} (inPart : i + 1 < n)
    (high : byteAt x i = byteOf (v / 256)) (low : byteAt x (i + 1) = byteOf v) :
    natAt bs (k + i) * 256 + natAt bs (k + i + 1) = v % 65536 := by
  rw [natAt_slice part (show i < n by omega), Nat.add_assoc, natAt_slice part inPart, high, low, fieldBytes_value]

/-- The bytes of a head's armed commit, in the body. -/
theorem statusBody_armed {s : State} {h : HeadId} {c : ArmedCommit} (lists : (s.heads.get h).armed = some c) :
    let base := 39 + 23 * headIndex h
    natAt (statusBody s) (base + 2) = 1 ∧
      (∀ t, (byteAt (statusBody s) (base + 3)).getLsbD (tableCode t) = c.tables.get t) ∧
      natAt (statusBody s) (base + 3) < 32 ∧
      natAt (statusBody s) (base + 4) = (if c.frameTag.isSome = true then 1 else 0) ∧
      ∀ f, c.frameTag = some f → byteAt (statusBody s) (base + 5) = f := by
  have block := statusBody_headPart s h (statusHead_armed s h) (by decide)
  rw [statusArmed_of_some lists] at block
  obtain ⟨bits, top⟩ := tableSetByte_bits c.tables
  have tables : byteAt (statusBody s) (39 + 23 * headIndex h + 3) = tableSetByte c.tables :=
    byteAt_slice block (i := 1) (by decide)
  refine ⟨natAt_slice block (i := 0) (by decide), fun t => ?_, ?_,
    (natAt_slice block (i := 2) (by decide)).trans (boolByte_toNat _), fun f tagged => ?_⟩
  · rw [tables]
    exact bits t
  · rw [natAt, tables]
    exact top
  · refine (byteAt_slice block (i := 3) (by decide)).trans ?_
    rw [tagged]
    rfl

section ShadowBytes
variable (s : State) (h : HeadId) (t : Table)

theorem shadowStateCode_byte (x : ShadowState) : (byteOf (shadowStateCode x)).toNat = shadowStateCode x := by cases x <;> rfl

theorem statusBody_shadowPart :
    ((statusBody s).drop (39 + 23 * headIndex h + (6 + 2 * tableCode t))).take 2 = statusShadow s h t :=
  statusBody_headPart s h (statusHead_shadow s h t) (by cases t <;> decide)

/-- The byte of a shadow's state, in the body. -/
theorem statusBody_shadow :
    natAt (statusBody s) (39 + 23 * headIndex h + 6 + 2 * tableCode t) = shadowStateCode (shadowState s h t) := by
  rw [Nat.add_assoc]
  exact (natAt_slice (statusBody_shadowPart s h t) (i := 0) (by decide)).trans (shadowStateCode_byte _)

/-- The byte of a shadow's coverage count, in the body. -/
theorem statusBody_coverage :
    natAt (statusBody s) (39 + 23 * headIndex h + 7 + 2 * tableCode t) =
      ((s.heads.get h).pairs.get t).coverage.length % 256 := by
  rw [show 39 + 23 * headIndex h + 7 + 2 * tableCode t = 39 + 23 * headIndex h + (6 + 2 * tableCode t) + 1 by omega]
  exact (natAt_slice (statusBody_shadowPart s h t) (i := 1) (by decide)).trans (byteOf_toNat _)

end ShadowBytes

/-! ## The take (R188, R191) -/

theorem answerAllowed_readStatus (c : Confinement) : answerAllowed c (verbCode .readStatus) = true ↔ c ≠ .mute := by
  cases c <;> decide

theorem ruleReadStatus_of_answered {p : Packet} {s : State} (wanted : answerWanted p.header = true)
    (heard : confinement s ≠ .mute) : ruleReadStatus p s = .carryOut (answerPacket p .done (statusBody s) (clearFlags s)) := by
  rw [ruleReadStatus, if_pos (by rw [wanted, (answerAllowed_readStatus _).2 heard]; rfl)]
  rfl

theorem ruleReadStatus_of_silent {p : Packet} {s : State}
    (silent : answerWanted p.header = false ∨ confinement s = .mute) : ruleReadStatus p s = .carryOut s := by
  refine if_neg fun answers => ?_
  rw [Bool.and_eq_true, answerAllowed_readStatus] at answers
  obtain unwanted | mute := silent
  · cases unwanted.symm.trans answers.1
  · exact answers.2 mute

/-- Settles O42: the take by whether its answer is generated, the body part by part, and the shadow states by R85's conditions. -/
theorem readStatusReportsAndClearsFlags : Obligations.ReadStatusReportsAndClearsFlags := by
  refine ⟨fun s p rest takes => ⟨fun wanted heard => ?_, fun silent => ?_⟩, fun s => ?_, hasJob_eq_true, coverageFull_eq_true,
    shadowState_by_conditions, rfl⟩
  · exact exec_takeOf_of_carryOut (v := .readStatus) takes rfl (ruleReadStatus_of_answered (s := afterTake rest s) wanted heard)
  · exact exec_takeOf_of_carryOut (v := .readStatus) takes rfl (ruleReadStatus_of_silent (s := afterTake rest s) silent)
  · have link := statusBody_link s
    have queues := statusBody_queues s
    have linkByte {i : Nat} (inPart : i < 13) : natAt (statusBody s) i = (byteAt (statusLink s) i).toNat := by
      rw [← natAt_slice link inPart, Nat.zero_add]
    have queuesByte {i : Nat} (inPart : i < 9) : natAt (statusBody s) (24 + i) = (byteAt (statusQueues s) i).toNat :=
      natAt_slice queues inPart
    intro body byte half flag
    refine ⟨statusBody_length s, (linkByte (i := 0) (by decide)).trans ?_,
      (linkByte (i := 1) (by decide)).trans (boolByte_toNat _), (byteAt_slice link (i := 2) (by decide)).trans (hopByte_eq _),
      (linkByte (i := 3) (by decide)).trans ?_, byteAt_slice link (i := 4) (by decide),
      field_slice link (i := 5) (by decide) rfl rfl, field_slice link (i := 7) (by decide) rfl rfl,
      field_slice link (i := 9) (by decide) rfl rfl, (linkByte (i := 12) (by decide)).trans (boolByte_toNat _),
      (linkByte (i := 11) (by decide)).trans (confinementByte_toNat _), fun empty => ?_, fun e occupied => ?_,
      (queuesByte (i := 0) (by decide)).trans ?_, (queuesByte (i := 1) (by decide)).trans (byteOf_toNat _),
      (queuesByte (i := 2) (by decide)).trans ?_, (queuesByte (i := 3) (by decide)).trans ?_,
      (queuesByte (i := 4) (by decide)).trans (byteOf_toNat _), (queuesByte (i := 5) (by decide)).trans (byteOf_toNat _),
      (queuesByte (i := 6) (by decide)).trans (byteOf_toNat _), (queuesByte (i := 7) (by decide)).trans (byteOf_toNat _),
      (queuesByte (i := 8) (by decide)).trans ?_, fun none => ?_, fun r refused => ?_,
      (natAt_slice (statusBody_jobs s) (i := 0) (by decide)).trans (byteOf_toNat _), fun h => ?_⟩
    · show (byteOf (unitStateCode s.control.state)).toNat = _
      cases s.control.state <;> rfl
    · show (byteOf (linkStateCode s.receiver.state)).toNat = _
      cases s.receiver.state <;> rfl
    · rw [statusBody_fault, faultBlock_of_empty empty]
    · rw [statusBody_fault, faultBlock_of_occupied occupied]
      cases e.kind <;> rfl
    · show (byteOf (guardModeCode s.fault.guard)).toNat = _
      cases s.fault.guard <;> rfl
    · refine (boolByte_toNat _).trans ?_
      simp only [decide_eq_true_eq]
    · show (byteOf (intakeModeCode s.intake.mode)).toNat = _
      cases s.intake.mode <;> rfl
    · show (byteOf (mergeModeCode s.answers.mode)).toNat = _
      cases s.answers.mode <;> rfl
    · rw [statusBody_refusal, none]
      rfl
    · rw [statusBody_refusal, refused]
      rfl
    · intro head base
      have state := statusBody_headPart s h (statusHead_state s h) (by decide)
      have counts := statusBody_headPart s h (statusHead_counts s h) (by decide)
      refine ⟨(natAt_slice state (i := 0) (by decide)).trans ?_, (natAt_slice state (i := 1) (by decide)).trans (boolByte_toNat _),
        fun none => ?_, fun c lists => ?_, fun t => ?_, field_slice counts (i := 0) (by decide) rfl rfl,
        field_slice counts (i := 2) (by decide) rfl rfl, field_slice counts (i := 4) (by decide) rfl rfl,
        (natAt_slice counts (i := 6) (by decide)).trans (eventFlagsByte_toNat _)⟩
      · show (byteOf (headStateCode head.state)).toNat = _
        cases head.state <;> rfl
      · rw [statusBody_headPart s h (statusHead_armed s h) (by decide), statusArmed_of_none none]
      · exact statusBody_armed lists
      · have conditions := shadowState_by_conditions s h t
        simp only [hasJob_eq_true, coverageFull_eq_true] at conditions
        obtain ⟨armed, job, full, part, stale⟩ := conditions
        have code := statusBody_shadow s h t
        exact ⟨fun a => code.trans (by rw [armed a]; rfl), fun a j => code.trans (by rw [job a j]; rfl),
          fun a j f => code.trans (by rw [full a j f]; rfl), fun a j f c => code.trans (by rw [part a j f c]; rfl),
          fun a j f c => code.trans (by rw [stale a j f c]; rfl), statusBody_coverage s h t⟩

end Sys2Proof.Proofs
end

section
/-! The unit's addresses: the hop that DISCOVER gives and the groups that SET-ACCEPT keeps (R114, R117, R119 to R122). -/

namespace Sys2Proof.Proofs

open Sys2Proof.Machine Sys2Proof.Safety Sys2Proof.Laws

/-! ## DISCOVER (R119, R120) -/

section Discover
variable {p : Packet} {s : State}

theorem ruleDiscover_of_overflow (toAll : p.header.target = 0xFF#8) (overflow : byteAt p.body 1 ≠ 0#8) :
    ruleDiscover p s =
      doneWith p [0xFF#8, byteOf (headsInRun s.heads)] { s with filter := { s.filter with hop := none } } := by
  simp [ruleDiscover, toAll, overflow, hopByte]

theorem ruleDiscover_of_hop (toAll : p.header.target = 0xFF#8) (noOverflow : ¬byteAt p.body 1 ≠ 0#8)
    (inRange : (byteAt p.body 0).toNat ≤ 15) :
    ruleDiscover p s =
      doneWith p [byteAt p.body 0, byteOf (headsInRun s.heads)]
        { s with filter := { s.filter with hop := some (byteAt p.body 0) } } := by
  have fits : ¬15 < natAt p.body 0 := Nat.not_lt.2 inRange
  simp [ruleDiscover, toAll, not_not.1 noOverflow, fits, hopByte]

theorem ruleDiscover_of_unfit
    (unfit : p.header.target ≠ 0xFF#8 ∨ ¬byteAt p.body 1 ≠ 0#8 ∧ 15 < (byteAt p.body 0).toNat) :
    ruleDiscover p s = .refuse .badArg := by
  obtain elsewhere | ⟨noOverflow, past⟩ := unfit
  · exact if_pos elsewhere
  · have tooFar : 15 < natAt p.body 0 := past
    simp [ruleDiscover, not_not.1 noOverflow, tooFar]

/-- What DISCOVER carries out: a hop within its range is taken, or none (R117, R119). -/
theorem ruleDiscover_inv {s' : State} (carry : ruleDiscover p s = .carryOut s') :
    ∃ hop body, (∀ h, hop = some h → h.toNat ≤ 15) ∧
      s' = answerPacket p .done body { s with filter := { s.filter with hop := hop } } := by
  by_cases unfit : p.header.target ≠ 0xFF#8 ∨ ¬byteAt p.body 1 ≠ 0#8 ∧ 15 < (byteAt p.body 0).toNat
  · rw [ruleDiscover_of_unfit unfit] at carry
    cases carry
  · obtain ⟨toAll, fits⟩ := not_or.1 unfit
    by_cases overflow : byteAt p.body 1 ≠ 0#8
    · rw [ruleDiscover_of_overflow (not_not.1 toAll) overflow] at carry
      cases carry
      exact ⟨none, _, by simp, rfl⟩
    · have inRange : (byteAt p.body 0).toNat ≤ 15 := Nat.not_lt.1 fun past => fits ⟨overflow, past⟩
      rw [ruleDiscover_of_hop (not_not.1 toAll) overflow inRange] at carry
      cases carry
      exact ⟨some (byteAt p.body 0), _, fun _ same => Option.some.inj same ▸ inRange, rfl⟩

end Discover

/-- Settles O38, by the overflow flag and the hop field. -/
theorem discoverNumbersUnit : Obligations.DiscoverNumbersUnit := fun _ _ _ takes =>
  ⟨fun toAll overflow => exec_takeOf_of_carryOut (v := .discover) takes rfl (ruleDiscover_of_overflow toAll overflow),
    fun toAll noOverflow inRange =>
      exec_takeOf_of_carryOut (v := .discover) takes rfl (ruleDiscover_of_hop toAll noOverflow inRange),
    fun unfit => exec_takeOf_of_refuse (v := .discover) takes rfl (ruleDiscover_of_unfit unfit)⟩

/-! ## Sets of addresses (R114) -/

/-- A set of addresses as it is kept: in ascending order, without repeats. -/
def Ascending (groups : List Byte) : Prop := groups.Pairwise fun a b => a.toNat < b.toNat

theorem mem_addressInsert (a x : Byte) (l : List Byte) : x ∈ addressInsert a l ↔ x = a ∨ x ∈ l := by
  induction l with
  | nil => simp [addressInsert]
  | cons y ys ih =>
    unfold addressInsert
    split_ifs with first same
    · simp
    · subst same
      simp
    · rw [List.mem_cons, ih, List.mem_cons]
      tauto

theorem ascending_addressInsert (a : Byte) {l : List Byte} (ascending : Ascending l) : Ascending (addressInsert a l) := by
  induction l with
  | nil => exact List.pairwise_singleton _ a
  | cons y ys ih =>
    obtain ⟨least, rest⟩ := List.pairwise_cons.1 ascending
    unfold addressInsert
    split_ifs with first same
    · refine List.pairwise_cons.2 ⟨fun z member => ?_, ascending⟩
      obtain rfl | later := List.mem_cons.1 member
      · exact first
      · exact first.trans (least z later)
    · exact ascending
    · refine List.pairwise_cons.2 ⟨fun z member => ?_, ih rest⟩
      obtain rfl | later := (mem_addressInsert a z ys).1 member
      · have other := BitVec.toNat_ne.1 same
        omega
      · exact least z later

/-- The groups held, with those listed. -/
def groupsAdded (listed groups : List Byte) : List Byte := listed.foldl (fun g a => addressInsert a g) groups

theorem mem_groupsAdded (listed groups : List Byte) (x : Byte) : x ∈ groupsAdded listed groups ↔ x ∈ groups ∨ x ∈ listed := by
  unfold groupsAdded
  induction listed generalizing groups with
  | nil => simp
  | cons a l ih =>
    rw [List.foldl_cons, ih, mem_addressInsert, List.mem_cons]
    tauto

theorem ascending_groupsAdded (listed : List Byte) {groups : List Byte} (ascending : Ascending groups) :
    Ascending (groupsAdded listed groups) :=
  List.foldlRecOn listed _ ascending fun _ held a _ => ascending_addressInsert a held

/-- The groups held but those listed. -/
def groupsRemoved (listed groups : List Byte) : List Byte := groups.filter fun g => !listed.contains g

theorem mem_groupsRemoved (listed groups : List Byte) (x : Byte) :
    x ∈ groupsRemoved listed groups ↔ x ∈ groups ∧ x ∉ listed := by simp [groupsRemoved]

/-! ## SET-ACCEPT (R121, R122) -/

/-- The groups that an action of SET-ACCEPT would leave: 0 is ADD, 1 is REMOVE. -/
def groupsAfter (action : Nat) (listed groups : List Byte) : List Byte :=
  if action = 0 then groupsAdded listed groups else groupsRemoved listed groups

theorem ascending_groupsAfter (action : Nat) (listed : List Byte) {groups : List Byte} (ascending : Ascending groups) :
    Ascending (groupsAfter action listed groups) := by
  unfold groupsAfter
  split
  · exact ascending_groupsAdded listed ascending
  · exact List.Pairwise.filter _ ascending

/-- The check of a SET-ACCEPT's listed addresses finds one outside 16..254 (R121). -/
theorem any_outside_iff (listed : List Byte) :
    listed.any (fun a => decide (a.toNat < 16) || decide (254 < a.toNat)) = true ↔
      ¬∀ a ∈ listed, 16 ≤ a.toNat ∧ a.toNat ≤ 254 := by
  simp only [List.any_eq_true, Bool.or_eq_true, decide_eq_true_eq, not_forall, exists_prop]
  exact exists_congr fun a => and_congr_right fun _ => by omega

section SetAccept
variable {p : Packet} {s : State}

theorem ruleSetAccept_of_crowded (add : natAt p.body 0 = 0)
    (crowded : 32 < (groupsAdded (listedAddresses p.body) s.filter.groups).length) :
    ruleSetAccept p s = .refuse .badArg := by
  unfold ruleSetAccept
  extract_lets action listed added groups
  have last : action = 0 ∧ 32 < added.length := ⟨add, crowded⟩
  rw [if_pos last]
  split_ifs <;> rfl

theorem ruleSetAccept_of_fits (action : natAt p.body 0 ≤ 1) (nonempty : 1 ≤ (listedAddresses p.body).length)
    (few : (listedAddresses p.body).length ≤ 8) (inRange : ∀ a ∈ listedAddresses p.body, 16 ≤ a.toNat ∧ a.toNat ≤ 254)
    (room : (groupsAfter (natAt p.body 0) (listedAddresses p.body) s.filter.groups).length ≤ 32) :
    ruleSetAccept p s =
      let groups := groupsAfter (natAt p.body 0) (listedAddresses p.body) s.filter.groups
      doneWith p (s.filter.hop.getD 0xFF#8 :: byteOf groups.length :: groups)
        { s with filter := { s.filter with groups := groups } } := by
  have notCrowded : ¬(natAt p.body 0 = 0 ∧ 32 < (groupsAdded (listedAddresses p.body) s.filter.groups).length) := by
    rintro ⟨add, crowded⟩
    rw [groupsAfter, if_pos add] at room
    omega
  rw [← hopByte_eq]
  unfold ruleSetAccept
  refine (if_neg (by omega)).trans ((if_neg (by omega)).trans ((if_neg ?_).trans (if_neg notCrowded)))
  exact fun outside => (any_outside_iff _).1 outside inRange

/-- What SET-ACCEPT carries out: the groups after its action, at most 32 where it adds, from listed addresses within their
range (R121, R122). -/
theorem ruleSetAccept_inv {s' : State} (carry : ruleSetAccept p s = .carryOut s') :
    ∃ action listed body, (∀ a ∈ listed, 16 ≤ a.toNat ∧ a.toNat ≤ 254) ∧
      (action = 0 → (groupsAdded listed s.filter.groups).length ≤ 32) ∧
      s' = answerPacket p .done body { s with filter := { s.filter with groups := groupsAfter action listed s.filter.groups } } := by
  unfold ruleSetAccept at carry
  extract_lets action listed added groups at carry
  split_ifs at carry with undefined count outside crowded
  cases carry
  refine ⟨action, listed, _, not_not.1 fun inRange => outside ((any_outside_iff _).2 inRange), fun add => ?_, rfl⟩
  exact Nat.not_lt.1 fun past => crowded ⟨add, past⟩

end SetAccept

/-- SET-ACCEPT's groups stay within the acceptance map's law (R114). -/
theorem addressesLegal_groupsAfter {f : PacketFilter} (legal : AddressesLegal f) {action : Nat} {listed : List Byte}
    (inRange : ∀ a ∈ listed, 16 ≤ a.toNat ∧ a.toNat ≤ 254)
    (room : action = 0 → (groupsAdded listed f.groups).length ≤ 32) :
    AddressesLegal { f with groups := groupsAfter action listed f.groups } := by
  obtain ⟨hop, count, held, ascending⟩ := legal
  refine ⟨hop, ?_, fun g member => ?_, ascending_groupsAfter action listed ascending⟩ <;> dsimp only [groupsAfter] at *
  · split_ifs with add
    · exact room add
    · exact (List.length_filter_le _ _).trans count
  · split_ifs at member with add
    · exact ((mem_groupsAdded listed f.groups g).1 member).elim (held g) (inRange g)
    · exact held g ((mem_groupsRemoved listed f.groups g).1 member).1

/-- Settles O39: the groups after each action, by their members, and the check of their number. -/
theorem setAcceptChangesGroups : Obligations.SetAcceptChangesGroups := by
  intro s p rest takes legal listed nonempty few inRange
  obtain ⟨-, -, -, ascending⟩ := legal
  refine ⟨groupsAfter (natAt p.body 0) listed s.filter.groups, ascending_groupsAfter _ listed ascending, fun add g => ?_,
    fun remove g => ?_, fun action room => ?_, fun add crowded => ?_⟩
  · rw [groupsAfter, if_pos add]
    exact mem_groupsAdded listed s.filter.groups g
  · rw [groupsAfter, if_neg (by omega)]
    exact mem_groupsRemoved listed s.filter.groups g
  · exact exec_takeOf_of_carryOut (v := .setAccept) takes rfl
      (ruleSetAccept_of_fits (s := afterTake rest s) action nonempty few inRange room)
  · rw [groupsAfter, if_pos add] at crowded
    exact exec_takeOf_of_refuse (v := .setAccept) takes rfl (ruleSetAccept_of_crowded (s := afterTake rest s) add crowded)

end Sys2Proof.Proofs
end

section
/-! Good packets: the acceptance map, the packet filter and the intake queue, as whole next states (R112, R114, R115, R117, R123,
R126 to R129). -/

namespace Sys2Proof.Proofs

open Sys2Proof.Machine Sys2Proof.Safety Sys2Proof.Laws

/-! ## The packet filter (R114, R115, R117) -/

theorem mem_acceptanceMap (f : PacketFilter) (b : Byte) :
    b ∈ acceptanceMap f ↔ b = 255#8 ∨ f.hop = some b ∨ b ∈ f.groups := by
  simp only [acceptanceMap, List.mem_append, Option.mem_toList, List.mem_singleton]
  tauto

theorem forThisUnit_iff (s : State) (p : Packet) :
    forThisUnit s p = true ↔ p.header.target ∈ acceptanceMap s.filter ∧ confinement s ≠ .mute := by
  simp [forThisUnit]

/-! ## The intake queue (R126 to R129) -/

theorem countTo255_eq (n : Nat) : countTo255 n = if n < 255 then n + 1 else 255 := by
  unfold countTo255
  split <;> omega

section Queue
variable {p : Packet} {s : State}

theorem queuePacket_of_room (room : s.intake.queue.length < 4) :
    queuePacket p s = { s with intake := { s.intake with queue := s.intake.queue ++ [p] } } := if_pos room

/-- Under OVERRUN a full queue loses the packet that arrives (R127). -/
theorem queuePacket_of_overrun (full : ¬s.intake.queue.length < 4) (mode : s.intake.mode = .overrun) :
    queuePacket p s = loseInIntake p s := by
  unfold queuePacket
  rw [if_neg full, mode]

/-- Under OVERWRITE a full queue loses the oldest packet (R128). -/
theorem queuePacket_of_overwrite {oldest : Packet} {rest : List Packet} (full : ¬s.intake.queue.length < 4)
    (mode : s.intake.mode = .overwrite) (queue : s.intake.queue = oldest :: rest) :
    queuePacket p s = loseInIntake oldest { s with intake := { s.intake with queue := rest ++ [p] } } := by
  unfold queuePacket
  rw [if_neg full, mode]
  simp only [queue]

end Queue

/-! ## Good packets (R112, R115, R123) -/

/-- The state in which a good packet reaches the packet filter: forwarded, and counted by the health monitor (R112, R123). -/
def countedPacket (bytes : List Byte) (s : State) : State :=
  { repeatThru (.packet (forwardedPacket bytes)) s with health := countGood s.health }

section Good
variable {s : State} {bytes : List Byte} (released : s.control.resetInput = false) (locked : s.receiver.state = .locked)
  (good : packetGood bytes = true)
include released locked good

theorem exec_packetArrival_of_good :
    exec (.packetArrival bytes) s = .next
      (if forThisUnit (countedPacket bytes s) (packetOf bytes) then queuePacket (packetOf bytes) (countedPacket bytes s)
       else countedPacket bytes s) := by
  show Host.Outcome.next (whileReleased (packetArrival bytes) s) = _
  rw [whileReleased_of_released _ released, packetArrival, locked]
  exact congrArg Host.Outcome.next (if_pos good)

theorem exec_packetArrival_of_others
    (others : ¬((rawHeader bytes).target ∈ acceptanceMap s.filter ∧ confinementOf (countGood s.health).errors ≠ .mute)) :
    exec (.packetArrival bytes) s = .next (countedPacket bytes s) := by
  rw [exec_packetArrival_of_good released locked good,
    if_neg fun ours => others ((forThisUnit_iff (countedPacket bytes s) (packetOf bytes)).1 ours)]

theorem exec_packetArrival_of_ours
    (ours : (rawHeader bytes).target ∈ acceptanceMap s.filter ∧ confinementOf (countGood s.health).errors ≠ .mute) :
    exec (.packetArrival bytes) s = .next (queuePacket (packetOf bytes) (countedPacket bytes s)) := by
  rw [exec_packetArrival_of_good released locked good,
    if_pos ((forThisUnit_iff (countedPacket bytes s) (packetOf bytes)).2 ours)]

end Good

/-- Settles O13: a good packet is counted and forwarded, then queued where it is for this unit, by the queue's room and mode. -/
theorem goodPacketIsFilteredAndQueued : Obligations.GoodPacketIsFilteredAndQueued := by
  refine ⟨fun s bytes released locked good => ⟨fun others => ?_, fun ours room => ?_⟩,
    fun s bytes oldest rest released locked good target heard queue three => ?_, mem_acceptanceMap⟩
  · exact exec_packetArrival_of_others released locked good others
  · rw [exec_packetArrival_of_ours released locked good ours, queuePacket_of_room (s := countedPacket bytes s) room]
    rfl
  · have full : ¬(countedPacket bytes s).intake.queue.length < 4 := by
      show ¬s.intake.queue.length < 4
      rw [queue, List.length_cons]
      omega
    rw [← countTo255_eq, exec_packetArrival_of_ours released locked good ⟨target, heard⟩]
    refine ⟨fun mode => ?_, fun mode => ?_⟩
    · rw [queuePacket_of_overrun full mode]
      rfl
    · rw [queuePacket_of_overwrite full mode queue]
      rfl

end Sys2Proof.Proofs
end

section
/-! The control side of the unit, its packet filter, health monitor, fault record, intake queue and answers: the operations that
commands are made of, as steps of it (chapters 6 to 9). -/

namespace Sys2Proof.Proofs

open Sys2Proof.Machine Sys2Proof.Safety Sys2Proof.Laws

/-- What control packets, faults and answers are counted and kept in. -/
structure ControlSide where
  filter : PacketFilter
  health : Health
  fault : FaultRecord
  intake : Intake
  answers : AnswerSide

/-- The control side of a state. -/
def controlSide (s : State) : ControlSide :=
  { filter := s.filter, health := s.health, fault := s.fault, intake := s.intake, answers := s.answers }

/-- Everything a command can do to the control side, in one step of its own. -/
inductive ControlStep : ControlSide → ControlSide → Prop
  /-- An answer is generated (R167, R168). -/
  | answered (x : ControlSide) (a : Answer) : ControlStep x { x with answers := queueAnswer a x.answers }
  /-- A fault is reported (R155). -/
  | reported (x : ControlSide) (kind : FaultKind) (complete : Bool) (header : Header) (frame : Byte) :
    ControlStep x { x with fault := reportFault kind complete header frame x.fault }
  /-- The oldest packet is taken (R134). -/
  | took (x : ControlSide) (p : Packet) (rest : List Packet) (queue : x.intake.queue = p :: rest) :
    ControlStep x { x with intake := { x.intake with queue := rest } }
  /-- A packet joins the intake queue (R126). -/
  | joined (x : ControlSide) (p : Packet) (room : x.intake.queue.length < 4) :
    ControlStep x { x with intake := { x.intake with queue := x.intake.queue ++ [p] } }
  /-- A packet takes the place of the oldest one (R128). -/
  | replaced (x : ControlSide) (p oldest : Packet) (rest : List Packet) (queue : x.intake.queue = oldest :: rest) :
    ControlStep x { x with intake := { x.intake with queue := rest ++ [p] } }
  /-- A lost packet is counted (R129). -/
  | countedLost (x : ControlSide) : ControlStep x { x with intake := { x.intake with lost := countTo255 x.intake.lost } }
  /-- A failed check is counted (R148). -/
  | countedFailed (x : ControlSide) : ControlStep x { x with health := countFailed x.health }
  /-- A good check is counted (R148, R152). -/
  | countedGood (x : ControlSide) : ControlStep x { x with health := countGood x.health }
  /-- DISCOVER (R117, R119). -/
  | discovered (x : ControlSide) (hop : Option Byte) (inRange : ∀ h, hop = some h → h.toNat ≤ 15) :
    ControlStep x { x with filter := { x.filter with hop := hop } }
  /-- SET-ACCEPT (R121, R122). -/
  | grouped (x : ControlSide) (groups : List Byte)
      (legal : AddressesLegal x.filter → AddressesLegal { x.filter with groups := groups }) :
    ControlStep x { x with filter := { x.filter with groups := groups } }
  /-- SET-INTAKE (R132). -/
  | intakeModeSet (x : ControlSide) (m : IntakeMode) : ControlStep x { x with intake := { x.intake with mode := m } }
  /-- SET-GUARD (R159). -/
  | guardSet (x : ControlSide) (m : GuardMode) : ControlStep x { x with fault := { x.fault with guard := m } }
  /-- CLEAR-FAULT (R160). -/
  | cleared (x : ControlSide) (fault warn counts : Bool) :
    ControlStep x { x with
      fault := if fault then { x.fault with entry := none } else x.fault
      health := if warn then { x.health with warn := false } else x.health
      intake := if counts then { x.intake with lost := 0 } else x.intake
      answers := if counts then { x.answers with lost := 0 } else x.answers }
  /-- The merge mode is set, or the return lane changes while no answer enters or leaves a store (R171, R173, R174). -/
  | laneChanged (x : ControlSide) (sending : Option Answer) (heldBack : Bool) (m : MergeMode) :
    ControlStep x { x with answers := { x.answers with sending := sending, heldBack := heldBack, mode := m } }
  /-- A send start (R172). -/
  | sent (x : ControlSide) : ControlStep x { x with answers := beginSend x.answers }
  /-- A relay arrival (R169). -/
  | relayed (x : ControlSide) (a : Answer) : ControlStep x { x with answers := relayArrive a x.answers }
  /-- RESET-UNIT (R184). -/
  | resetUnit (x : ControlSide) :
    ControlStep x { x with
      intake := { queue := [], mode := .overrun, lost := 0 }
      answers := { x.answers with own := [], mode := .relayFirst, lost := 0 } }
  /-- A power-on reset (R183). -/
  | powerOn (x : ControlSide) :
    ControlStep x { controlSide State.reset with answers := { State.reset.answers with heldBack := x.answers.heldBack } }

/-- A run of such steps from one state to another. -/
def ControlSteps (s t : State) : Prop := Relation.ReflTransGen ControlStep (controlSide s) (controlSide t)

/-- What every step of the control side keeps, a run of steps keeps. -/
theorem ControlSteps.keeps {Inv : ControlSide → Prop} (step : ∀ x y, ControlStep x y → Inv x → Inv y) {s t : State}
    (steps : ControlSteps s t) (inv : Inv (controlSide s)) : Inv (controlSide t) := by
  unfold ControlSteps at steps
  generalize controlSide t = y at steps ⊢
  induction steps with
  | refl => exact inv
  | tail _ last ih => exact step _ _ last ih

theorem controlSteps_of_eq {s t : State} (same : controlSide t = controlSide s) : ControlSteps s t := by
  rw [ControlSteps, same]

theorem controlSteps_refl (s : State) : ControlSteps s s := .refl

theorem controlSteps_of_step {s t : State} (step : ControlStep (controlSide s) (controlSide t)) : ControlSteps s t :=
  .single step

theorem ControlSteps.trans {s t u : State} (first : ControlSteps s t) (second : ControlSteps t u) : ControlSteps s u :=
  Relation.ReflTransGen.trans first second

/-- A fold of operations that step the control side steps the control side. -/
theorem foldl_controlSteps {α : Type} (l : List α) (f : State → α → State) (step : ∀ s a, ControlSteps s (f s a)) (s : State) :
    ControlSteps s (l.foldl f s) := by
  induction l generalizing s with
  | nil => exact controlSteps_refl s
  | cons a l ih => exact (step s a).trans (ih _)

/-! ## Answers (R164 to R168) -/

theorem generate_controlSteps (verb tag : Byte) (wanted : Bool) (o : OutcomeCode) (head : Option HeadId) (body : List Byte)
    (s : State) : ControlSteps s (generate verb tag wanted o head body s) := by
  unfold generate
  split
  · exact controlSteps_of_step (.answered (controlSide s) _)
  · exact controlSteps_refl s

theorem ControlSteps.answered {s t : State} {p : Packet} {o : OutcomeCode} {body : List Byte} (steps : ControlSteps s t) :
    ControlSteps s (answerPacket p o body t) := steps.trans (generate_controlSteps _ _ _ _ _ _ t)

theorem answerSwaps_controlSteps (order : List HeadId) (runs : PerHead HeadRun) (s : State) :
    ControlSteps s (answerSwaps order runs s) := by
  refine foldl_controlSteps _ _ (fun s h => ?_) s
  cases (runs.get h).swapped with
  | none => exact controlSteps_refl s
  | some c => exact generate_controlSteps _ _ _ _ _ _ s

/-- An event handed to the heads, in a state with the same control side. -/
theorem handToHeads_controlSteps {f : Head → HeadRun} {s r : State} (same : controlSide r = controlSide s) :
    ControlSteps s (handToHeads f r) :=
  (controlSteps_of_eq same).trans
    (answerSwaps_controlSteps _ _ { applyRuns (.ofFn fun h => f (r.heads.get h)) r with turn := r.turn + 1 })

theorem runHeads_controlSteps (f : HeadId → Head → HeadRun) (s : State) : ControlSteps s (runHeads f s) :=
  answerSwaps_controlSteps _ _ (applyRuns (.ofFn fun h => f h (s.heads.get h)) s)

theorem answerJobs_controlSteps (o : OutcomeCode) (jobs : List SyncJob) (s : State) :
    ControlSteps s (jobs.foldl (fun s j => answerJob j o s) s) :=
  foldl_controlSteps _ _ (fun s _ => generate_controlSteps _ _ _ _ _ _ s) s

/-! ## Withdrawals (R77, R93, R104) -/

theorem withdraw_controlSteps (h : HeadId) (s : State) : ControlSteps s (withdraw h s) := by
  unfold withdraw
  split
  · exact generate_controlSteps _ _ _ _ _ _ { s with heads := s.heads.set h { s.heads.get h with armed := none } }
  · exact controlSteps_refl s

theorem removeJob_controlSteps (h : HeadId) (s : State) (t : Table) : ControlSteps s (removeJob h s t) :=
  answerJobs_controlSteps .cancelled _ { s with copy := { s.copy with jobs := withoutJob s.copy.jobs h t } }

@[simp] theorem controlSide_resumeCopy (s : State) : controlSide (resumeCopy s) = controlSide s := by
  rw [resumeCopy_eq]
  rfl

theorem ControlSteps.resumed {s t : State} (steps : ControlSteps s t) : ControlSteps s (resumeCopy t) :=
  steps.trans (controlSteps_of_eq (controlSide_resumeCopy t))

theorem cancelHead_controlSteps (ts : TableSet) (s : State) (h : HeadId) : ControlSteps s (cancelHead ts s h) := by
  refine ControlSteps.trans ?_ (foldl_controlSteps _ _ (removeJob_controlSteps h) _)
  split
  · exact withdraw_controlSteps h s
  · exact controlSteps_refl s

theorem beginGeneration_controlSteps (p : Packet) (h : HeadId) (s : State) : ControlSteps s (beginGeneration p h s) := by
  have withdrawn : ControlSteps s (withdraw h (retimed p h s)) := withdraw_controlSteps h (retimed p h s)
  rw [beginGeneration_eq]
  exact ((withdrawn.trans (removeJob_controlSteps h _ .mesh)).trans (removeJob_controlSteps h _ .blend)).resumed

/-! ## Takes and the intake queue (chapter 7) -/

theorem afterTake_controlSteps {s : State} {p : Packet} {rest : List Packet} (queue : s.intake.queue = p :: rest) :
    ControlSteps s (afterTake rest s) := controlSteps_of_step (.took (controlSide s) p rest queue)

theorem refuseTake_controlSteps (o : OutcomeCode) (p : Packet) (s : State) : ControlSteps s (refuseTake o p s) :=
  ControlSteps.answered (controlSteps_of_eq rfl)

theorem refuseForm_controlSteps (p : Packet) (s : State) : ControlSteps s (refuseForm p s) :=
  (controlSteps_of_step (t := { s with fault := reportFault .form true p.header s.receiver.frame s.fault })
    (.reported (controlSide s) _ _ _ _)).trans (refuseTake_controlSteps .badForm p _)

theorem loseInIntake_controlSteps (p : Packet) (s : State) : ControlSteps s (loseInIntake p s) :=
  (controlSteps_of_step (t := { s with intake := { s.intake with lost := countTo255 s.intake.lost } })
    (.countedLost (controlSide s))).trans (controlSteps_of_step (.reported _ .lost true p.header s.receiver.frame))

theorem queuePacket_controlSteps (p : Packet) (s : State) : ControlSteps s (queuePacket p s) := by
  unfold queuePacket
  split
  · rename_i room
    exact controlSteps_of_step (.joined (controlSide s) p room)
  · split
    · exact loseInIntake_controlSteps p s
    · split
      · rename_i oldest rest queue
        exact (controlSteps_of_step (t := { s with intake := { s.intake with queue := rest ++ [p] } })
          (.replaced (controlSide s) p oldest rest queue)).trans (loseInIntake_controlSteps oldest _)
      · exact controlSteps_refl s

/-- A packet recognised in LOCKED is counted, then queued or reported (R112). -/
theorem checkPacket_controlSteps (bytes : List Byte) (s : State) : ControlSteps s (checkPacket bytes s) := by
  unfold checkPacket
  split
  · have counted : ControlSteps s { s with health := countGood s.health } :=
      controlSteps_of_step (.countedGood (controlSide s))
    dsimp only
    split
    · exact counted.trans (queuePacket_controlSteps _ _)
    · exact counted
  · exact (controlSteps_of_step (t := { s with health := countFailed s.health }) (.countedFailed (controlSide s))).trans
      (controlSteps_of_step (.reported _ _ _ _ _))

end Sys2Proof.Proofs
end

section
/-! The control side at every command (chapters 6 to 10). -/

namespace Sys2Proof.Proofs

open Sys2Proof.Machine Sys2Proof.Safety Sys2Proof.Laws

/-! ## Takes -/

/-- What a verb's rule carries out steps the control side. -/
theorem ruleOf_controlSteps {v : Verb} {p : Packet} {s s' : State} (carry : ruleOf v p s = .carryOut s') :
    ControlSteps s s' := by
  cases v with
  | discover =>
    obtain ⟨hop, body, inRange, rfl⟩ := ruleDiscover_inv carry
    exact ControlSteps.answered (controlSteps_of_step (.discovered (controlSide s) hop inRange))
  | setAccept =>
    obtain ⟨action, listed, body, inRange, room, rfl⟩ := ruleSetAccept_inv carry
    exact ControlSteps.answered (controlSteps_of_step (.grouped (controlSide s) (groupsAfter action listed s.filter.groups)
      fun legal => addressesLegal_groupsAfter legal inRange room))
  | setLink =>
    cases carry
    exact ControlSteps.answered (controlSteps_of_eq rfl)
  | setIntake =>
    simp only [ruleOf, ruleSetIntake, doneWith] at carry
    split at carry <;> cases carry
    exact ControlSteps.answered (controlSteps_of_step (.intakeModeSet (controlSide s) _))
  | setGuard =>
    simp only [ruleOf, ruleSetGuard, doneWith] at carry
    split at carry <;> cases carry
    exact ControlSteps.answered (controlSteps_of_step (.guardSet (controlSide s) _))
  | setReturn =>
    simp only [ruleOf, ruleSetReturn, doneWith] at carry
    split at carry <;> cases carry
    exact ControlSteps.answered (controlSteps_of_step (.laneChanged (controlSide s) s.answers.sending s.answers.heldBack _))
  | clearFault =>
    simp only [ruleOf, ruleClearFault, doneWith] at carry
    split at carry <;> cases carry
    exact ControlSteps.answered (controlSteps_of_step (.cleared (controlSide s) _ _ _))
  | readStatus =>
    simp only [ruleOf, ruleReadStatus, doneWith] at carry
    split at carry <;> cases carry
    · exact ControlSteps.answered (controlSteps_of_eq rfl)
    · exact controlSteps_refl s
  | resetUnit =>
    cases carry
    exact controlSteps_of_step (.resetUnit (controlSide s))
  | setTiming =>
    simp only [ruleOf, ruleSetTiming] at carry
    split at carry
    · split_ifs at carry
      cases carry
      exact beginGeneration_controlSteps _ _ _
    · cases carry
  | start =>
    simp only [ruleOf, ruleStart, doneWith] at carry
    split at carry <;> cases carry
    exact ControlSteps.answered (controlSteps_of_eq rfl)
  | stop =>
    rw [ruleOf, ruleStop_eq] at carry
    cases carry
    have stopped : ControlSteps s (stoppedState p s) := controlSteps_refl s
    unfold afterStop
    split
    · exact (stopped.answered).trans (answerSwaps_controlSteps _ _ _)
    · exact (stopped.trans (answerSwaps_controlSteps _ _ _)).answered
  | writeTable =>
    simp only [ruleOf, ruleWriteTable] at carry
    split at carry
    · cases carry
    · split_ifs at carry
      cases carry
      exact controlSteps_refl s
  | readTable =>
    simp only [ruleOf, ruleReadTable, doneWith] at carry
    split at carry
    · split at carry
      · cases carry
      · split_ifs at carry
        cases carry
        exact (controlSteps_refl s).answered
    · cases carry
  | sync =>
    obtain ⟨-, rfl⟩ := ruleSync_inv carry
    have queued : ControlSteps s (jobsQueued (syncJobs p s) s) := controlSteps_refl s
    exact queued.resumed.answered
  | commit =>
    simp only [ruleOf, ruleCommit] at carry
    split_ifs at carry
    cases carry
    have armed : ControlSteps s { s with heads := armHeads p s.heads } := controlSteps_refl s
    exact (armed.answered).trans (runHeads_controlSteps _ _)
  | cancel =>
    simp only [ruleOf, ruleCancel] at carry
    have cancelled := (foldl_controlSteps (packetHeads p) _ (cancelHead_controlSteps (tableSetOf (byteAt p.body 0))) s).resumed
    split_ifs at carry
    all_goals
      cases carry
      exact cancelled.answered

theorem takeVerb_controlSteps (v : Verb) (s : State) : ControlSteps s (takeVerb v (ruleOf v) s) := by
  obtain same | ⟨p, rest, -, -, queue, -, judged⟩ := takeVerb_cases v (ruleOf v) s
  · exact controlSteps_of_eq (by rw [same])
  · rw [judged]
    refine (afterTake_controlSteps queue).trans ?_
    obtain ⟨-, form⟩ | ⟨-, ⟨o, refusal⟩ | ⟨s', carry, result⟩⟩ := judge_cases v (ruleOf v) p (afterTake rest s)
    · rw [form]
      exact refuseForm_controlSteps p _
    · rw [refusal]
      exact refuseTake_controlSteps o p _
    · rw [result]
      exact ruleOf_controlSteps carry

theorem takeUnknown_controlSteps (s : State) : ControlSteps s (takeUnknown s) := by
  unfold takeUnknown
  split
  · rename_i p s' due
    obtain ⟨-, -, rest, queue, rfl⟩ := nextTake_eq_some due
    split
    · exact (afterTake_controlSteps queue).trans (refuseForm_controlSteps p _)
    · exact controlSteps_refl s
  · exact controlSteps_refl s

/-! ## Completions -/

theorem writeCompletion_controlSteps (s : State) : ControlSteps s (writeCompletion s) := by
  unfold writeCompletion
  split
  · dsimp only
    split
    · exact ControlSteps.answered (controlSteps_of_eq rfl)
    · exact controlSteps_of_eq rfl
  · exact controlSteps_refl s

theorem generationCompletion_controlSteps (s : State) : ControlSteps s (generationCompletion s) := by
  unfold generationCompletion
  split
  · split
    · exact ControlSteps.answered (controlSteps_of_eq rfl)
    · exact controlSteps_of_eq rfl
  · exact controlSteps_refl s

theorem segmentCopyCompletion_controlSteps (s : State) : ControlSteps s (segmentCopyCompletion s) := by
  unfold segmentCopyCompletion
  split
  · rename_i c _
    dsimp only
    split
    · exact answerJobs_controlSteps .done _ { changePair c.head c.table (copySegment c.segment) s with copy := _ }
    · exact controlSteps_of_eq rfl
  · exact controlSteps_refl s

theorem initializationCompletion_controlSteps (s : State) : ControlSteps s (initializationCompletion s) := by
  have ready : ControlSteps s (readyUnit s) := controlSteps_of_eq rfl
  have finished : ControlSteps s (finishInitialization s) := by
    unfold finishInitialization
    split
    · exact ready.answered
    · exact ready
  unfold initializationCompletion
  split
  · refine finished.trans ?_
    obtain noTake | unknown | ⟨v, taken⟩ := takeOldest_cases (finishInitialization s)
    · exact controlSteps_of_eq (by rw [noTake])
    · rw [unknown]
      exact takeUnknown_controlSteps _
    · rw [taken]
      exact takeVerb_controlSteps v _
  · exact controlSteps_refl s

/-! ## Events -/

@[simp] theorem controlSide_carrierUp (s : State) : controlSide (carrierUp s) = controlSide s := by
  unfold carrierUp
  split <;> rfl

@[simp] theorem controlSide_carrierLoss (broken : Option ItemPart) (s : State) :
    controlSide (carrierLoss broken s) = controlSide s := by
  unfold carrierLoss
  split <;> rfl

@[simp] theorem controlSide_releaseReset (carrier : Bool) (s : State) : controlSide (releaseReset carrier s) = controlSide s := by
  unfold releaseReset
  split
  · cases carrier with
    | true => exact controlSide_carrierUp _
    | false => rfl
  · rfl

@[simp] theorem controlSide_malformedMarker (bytes : List Byte) (s : State) :
    controlSide (malformedMarker bytes s) = controlSide s := by
  unfold malformedMarker
  split <;> rfl

theorem frameStart_controlSteps (frame : Byte) (width height : Half) (s : State) :
    ControlSteps s (frameStart frame width height s) := by
  unfold frameStart
  split
  · exact controlSteps_refl s
  · exact handToHeads_controlSteps rfl

theorem lineCompletion_controlSteps (pixels : List Pixel) (s : State) : ControlSteps s (lineCompletion pixels s) := by
  unfold lineCompletion
  split
  · exact controlSteps_refl s
  · dsimp only
    split
    · exact handToHeads_controlSteps rfl
    · exact controlSteps_of_eq rfl

theorem absenceExpiry_controlSteps (s : State) : ControlSteps s (absenceExpiry s) := by
  unfold absenceExpiry
  split
  · exact handToHeads_controlSteps rfl
  · exact controlSteps_refl s

theorem fillTimerExpiry_controlSteps (h : HeadId) (s : State) : ControlSteps s (fillTimerExpiry h s) := by
  unfold fillTimerExpiry
  split
  · exact runHeads_controlSteps _ s
  · exact controlSteps_refl s

theorem packetArrival_controlSteps (bytes : List Byte) (s : State) : ControlSteps s (packetArrival bytes s) := by
  unfold packetArrival
  split
  · exact controlSteps_refl s
  · exact controlSteps_of_eq rfl
  · exact controlSteps_of_eq rfl
  · exact checkPacket_controlSteps bytes (repeatThru (.packet (forwardedPacket bytes)) s)

theorem completeSend_controlSteps (held arrived : Bool) (s : State) : ControlSteps s (completeSend held arrived s) := by
  unfold completeSend
  split
  · exact controlSteps_of_step (.laneChanged (controlSide s) none _ s.answers.mode)
  · exact controlSteps_refl s

/-! ## Every command -/

theorem whileReleased_controlSteps {f : State → State} {s : State} (steps : ControlSteps s (f s)) :
    ControlSteps s (whileReleased f s) := whileReleased_induction (controlSteps_refl s) steps

theorem exec_takeOf_controlSteps {v : Verb} {s t : State} (run : exec (takeOf v) s = .next t) : ControlSteps s t := by
  rw [exec_takeOf] at run
  cases run
  exact whileReleased_controlSteps (takeVerb_controlSteps v s)

/-- Every command changes the control side by a run of steps of `ControlStep`. -/
theorem exec_controlSteps {c : Instr} {s t : State} (run : exec c s = .next t) : ControlSteps s t := by
  cases c with
  | powerOnReset broken => cases run; exact controlSteps_of_step (.powerOn (controlSide s))
  | resetInputRelease carrier => cases run; exact controlSteps_of_eq (controlSide_releaseReset carrier s)
  | initializationCompletion => cases run; exact whileReleased_controlSteps (initializationCompletion_controlSteps s)
  | carrierUp => cases run; exact whileReleased_controlSteps (controlSteps_of_eq (controlSide_carrierUp s))
  | carrierLoss broken => cases run; exact whileReleased_controlSteps (controlSteps_of_eq (controlSide_carrierLoss broken s))
  | frameStart f w h => cases run; exact whileReleased_controlSteps (frameStart_controlSteps f w h s)
  | malformedMarker bytes =>
    cases run
    exact whileReleased_controlSteps (controlSteps_of_eq (controlSide_malformedMarker bytes s))
  | lineCompletion pixels => cases run; exact whileReleased_controlSteps (lineCompletion_controlSteps pixels s)
  | packetArrival bytes => cases run; exact whileReleased_controlSteps (packetArrival_controlSteps bytes s)
  | absenceExpiry => cases run; exact whileReleased_controlSteps (absenceExpiry_controlSteps s)
  | fillTimerExpiry h => cases run; exact whileReleased_controlSteps (fillTimerExpiry_controlSteps h s)
  | writeCompletion => cases run; exact whileReleased_controlSteps (writeCompletion_controlSteps s)
  | generationCompletion => cases run; exact whileReleased_controlSteps (generationCompletion_controlSteps s)
  | segmentCopyCompletion => cases run; exact whileReleased_controlSteps (segmentCopyCompletion_controlSteps s)
  | sendStart => cases run; exact whileReleased_controlSteps (controlSteps_of_step (.sent (controlSide s)))
  | sendCompletion held arrived => cases run; exact whileReleased_controlSteps (completeSend_controlSteps held arrived s)
  | relayArrival a => cases run; exact whileReleased_controlSteps (controlSteps_of_step (.relayed (controlSide s) a))
  | holdBackRelease asserted =>
    cases run
    exact controlSteps_of_step (.laneChanged (controlSide s) s.answers.sending asserted s.answers.mode)
  | unknownVerb => cases run; exact whileReleased_controlSteps (takeUnknown_controlSteps s)
  | discover => exact exec_takeOf_controlSteps (v := .discover) run
  | setAccept => exact exec_takeOf_controlSteps (v := .setAccept) run
  | setLink => exact exec_takeOf_controlSteps (v := .setLink) run
  | setIntake => exact exec_takeOf_controlSteps (v := .setIntake) run
  | setGuard => exact exec_takeOf_controlSteps (v := .setGuard) run
  | setReturn => exact exec_takeOf_controlSteps (v := .setReturn) run
  | clearFault => exact exec_takeOf_controlSteps (v := .clearFault) run
  | readStatus => exact exec_takeOf_controlSteps (v := .readStatus) run
  | resetUnit => exact exec_takeOf_controlSteps (v := .resetUnit) run
  | setTiming => exact exec_takeOf_controlSteps (v := .setTiming) run
  | start => exact exec_takeOf_controlSteps (v := .start) run
  | stop => exact exec_takeOf_controlSteps (v := .stop) run
  | writeTable => exact exec_takeOf_controlSteps (v := .writeTable) run
  | readTable => exact exec_takeOf_controlSteps (v := .readTable) run
  | sync => exact exec_takeOf_controlSteps (v := .sync) run
  | commit => exact exec_takeOf_controlSteps (v := .commit) run
  | cancel => exact exec_takeOf_controlSteps (v := .cancel) run

/-- What every step of the control side keeps, every step of the machine keeps. -/
theorem step_keeps_controlSide {Inv : ControlSide → Prop} (step : ∀ x y, ControlStep x y → Inv x → Inv y) :
    ∀ s t : State, Inv (controlSide s) → Machine.step s = .next t → Inv (controlSide t) :=
  step_keeps (Inv := fun s => Inv (controlSide s)) (fun _ _ inv => inv) fun _ _ _ inv run =>
    (exec_controlSteps run).keeps step inv

end Sys2Proof.Proofs
end

section
/-! Stores within their sizes, counts within their tops, the health monitor and the acceptance map, at every step (R114, R117, R125,
R129, R148, R149, R152 to R154, R167, R168, R170). -/

namespace Sys2Proof.Proofs

open Sys2Proof.Machine Sys2Proof.Safety

/-! ## Stores and saturating counts -/

theorem countTo255_le (n : Nat) : countTo255 n ≤ 255 := Nat.min_le_left _ _

/-- The intake queue and its lost count within their bounds (R125, R129). -/
def IntakeBounded (x : Intake) : Prop := x.queue.length ≤ 4 ∧ x.lost ≤ 255

/-- The stores of the answer side and its lost count within their bounds (R167, R168, R170). -/
def AnswersBounded (x : AnswerSide) : Prop := x.own.length ≤ 4 ∧ x.relay.length ≤ 2 ∧ x.lost ≤ 255

/-- The overflow count of an occupied fault record within its bound (R154). -/
def FaultBounded (r : FaultRecord) : Prop := ∀ e, r.entry = some e → e.overflow ≤ 255

/-- Every store and count of a control side within its bounds. -/
def ControlSide.Bounded (x : ControlSide) : Prop := IntakeBounded x.intake ∧ AnswersBounded x.answers ∧ FaultBounded x.fault

theorem storesBounded_iff (s : State) : StoresBounded s ↔ (controlSide s).Bounded := by
  simp only [StoresBounded, ControlSide.Bounded, IntakeBounded, AnswersBounded, and_assoc]
  rfl

theorem queueAnswer_bounded (a : Answer) {x : AnswerSide} (bounded : AnswersBounded x) : AnswersBounded (queueAnswer a x) := by
  obtain ⟨own, relay, lost⟩ := bounded
  unfold queueAnswer
  split
  · rename_i room
    exact ⟨by simpa using room, relay, lost⟩
  · exact ⟨own, relay, countTo255_le _⟩

theorem beginSend_bounded {x : AnswerSide} (bounded : AnswersBounded x) : AnswersBounded (beginSend x) := by
  obtain ⟨own, relay, lost⟩ := bounded
  unfold beginSend
  split
  · split
    · exact ⟨(List.tail_sublist _).length_le.trans own, relay, lost⟩
    · exact ⟨own, (List.tail_sublist _).length_le.trans relay, lost⟩
    · exact ⟨own, relay, lost⟩
  · exact ⟨own, relay, lost⟩

theorem relayArrive_bounded (a : Answer) {x : AnswerSide} (bounded : AnswersBounded x) : AnswersBounded (relayArrive a x) := by
  obtain ⟨own, relay, lost⟩ := bounded
  unfold relayArrive
  split
  · rename_i room
    exact ⟨own, by simpa using room, lost⟩
  · exact ⟨own, relay, lost⟩

theorem reportFault_bounded (kind : FaultKind) (complete : Bool) (header : Header) (frame : Byte) (r : FaultRecord) :
    FaultBounded (reportFault kind complete header frame r) := by
  intro e occupied
  unfold reportFault at occupied
  split at occupied <;> cases occupied
  · exact Nat.zero_le _
  · exact countTo255_le _

theorem ControlStep.keeps_bounded {x y : ControlSide} (step : ControlStep x y) (bounded : x.Bounded) : y.Bounded := by
  obtain ⟨⟨queue, lost⟩, answers, fault⟩ := bounded
  cases step with
  | answered a => exact ⟨⟨queue, lost⟩, queueAnswer_bounded a answers, fault⟩
  | reported kind complete header frame => exact ⟨⟨queue, lost⟩, answers, reportFault_bounded kind complete header frame _⟩
  | took p rest oldest =>
    rw [oldest] at queue
    exact ⟨⟨Nat.le_of_succ_le queue, lost⟩, answers, fault⟩
  | joined p room => exact ⟨⟨by simpa using room, lost⟩, answers, fault⟩
  | replaced p first rest oldest =>
    rw [oldest] at queue
    exact ⟨⟨by simpa using queue, lost⟩, answers, fault⟩
  | countedLost => exact ⟨⟨queue, countTo255_le _⟩, answers, fault⟩
  | cleared record warn counts =>
    obtain ⟨own, relay, lostAnswers⟩ := answers
    refine ⟨?_, ?_, ?_⟩ <;> dsimp only
    · split
      · exact ⟨queue, Nat.zero_le _⟩
      · exact ⟨queue, lost⟩
    · split
      · exact ⟨own, relay, Nat.zero_le _⟩
      · exact ⟨own, relay, lostAnswers⟩
    · split
      · exact nofun
      · exact fault
  | sent => exact ⟨⟨queue, lost⟩, beginSend_bounded answers, fault⟩
  | relayed a => exact ⟨⟨queue, lost⟩, relayArrive_bounded a answers, fault⟩
  | resetUnit =>
    obtain ⟨-, relay, -⟩ := answers
    exact ⟨⟨Nat.zero_le _, Nat.zero_le _⟩, ⟨Nat.zero_le _, relay, Nat.zero_le _⟩, fault⟩
  | powerOn =>
    exact ⟨⟨Nat.zero_le _, Nat.zero_le _⟩, ⟨Nat.zero_le _, Nat.zero_le _, Nat.zero_le _⟩, nofun⟩
  | _ => exact ⟨⟨queue, lost⟩, answers, fault⟩

/-! ## The health monitor (R148, R149, R152, R153) -/

@[simp] theorem setErrors_errors (e : Nat) (h : Health) : (setErrors e h).errors = e := by
  unfold setErrors
  split_ifs <;> rfl

@[simp] theorem setErrors_muteRun (e : Nat) (h : Health) : (setErrors e h).muteRun = h.muteRun := by
  unfold setErrors
  split_ifs <;> rfl

/-- A new error count leaves the re-arm flag armed exactly where it is below 96 (R153). -/
theorem setErrors_rearm (e : Nat) {h : Health} (armed : h.rearm = true ↔ h.errors < 96) :
    (setErrors e h).rearm = true ↔ e < 96 := by
  unfold setErrors
  split_ifs with up down
  · exact iff_of_false id (by omega)
  · exact iff_of_true rfl (by omega)
  · rw [armed]
    omega

theorem confinementOf_eq_mute (errors : Nat) : confinementOf errors = .mute ↔ 255 < errors := by
  unfold confinementOf
  split_ifs <;> simp <;> omega

theorem countFailed_legal {h : Health} (legal : HealthLegal h) : HealthLegal (countFailed h) := by
  obtain ⟨-, -, -, armed⟩ := legal
  refine ⟨?_, Nat.zero_lt_succ _, fun _ => rfl, ?_⟩
  · exact (setErrors_errors _ h).trans_le (Nat.min_le_left _ _)
  · simpa [countFailed] using setErrors_rearm (min 256 (h.errors + 8)) armed

/-- Outside MUTE a good check takes 1 from the error count (R148). -/
theorem countGood_of_heard {h : Health} (heard : confinementOf h.errors ≠ .mute) : countGood h = setErrors (h.errors - 1) h := by
  unfold countGood
  split
  · rename_i mute
    exact absurd mute heard
  · rfl
  · rfl

/-- In MUTE a good check counts in the recovery run, whose 64th sets the error count to 0 (R152). -/
theorem countGood_of_mute {h : Health} (mute : confinementOf h.errors = .mute) :
    countGood h = if 63 ≤ h.muteRun then { setErrors 0 h with muteRun := 0 } else { h with muteRun := h.muteRun + 1 } := by
  unfold countGood
  rw [mute]

theorem countGood_legal {h : Health} (legal : HealthLegal h) : HealthLegal (countGood h) := by
  obtain ⟨top, run, noRun, armed⟩ := legal
  by_cases mute : confinementOf h.errors = .mute
  · have past := (confinementOf_eq_mute h.errors).1 mute
    rw [countGood_of_mute mute]
    split_ifs with last
    · exact ⟨by simp, Nat.zero_lt_succ _, fun _ => rfl, by simpa using setErrors_rearm 0 armed⟩
    · exact ⟨top, by simp only; omega, fun below => absurd below (by simp only; omega), armed⟩
  · have below : ¬255 < h.errors := fun past => mute ((confinementOf_eq_mute h.errors).2 past)
    have idle := noRun (by omega)
    rw [countGood_of_heard mute]
    refine ⟨?_, ?_, fun _ => ?_, ?_⟩
    · rw [setErrors_errors]
      omega
    · rw [setErrors_muteRun]
      exact run
    · rw [setErrors_muteRun]
      exact idle
    · rw [setErrors_errors]
      exact setErrors_rearm _ armed

theorem resetHealth_legal : HealthLegal State.reset.health := ⟨by decide, by decide, fun _ => rfl, by decide⟩

theorem ControlStep.keeps_health {x y : ControlSide} (step : ControlStep x y) (legal : HealthLegal x.health) :
    HealthLegal y.health := by
  cases step with
  | countedFailed => exact countFailed_legal legal
  | countedGood => exact countGood_legal legal
  | cleared record warn counts => cases warn <;> exact legal
  | powerOn => exact resetHealth_legal
  | _ => exact legal

/-! ## The acceptance map (R114, R117) -/

theorem ControlStep.keeps_addresses {x y : ControlSide} (step : ControlStep x y) (legal : AddressesLegal x.filter) :
    AddressesLegal y.filter := by
  cases step with
  | discovered hop inRange =>
    obtain ⟨-, groups⟩ := legal
    exact ⟨inRange, groups⟩
  | grouped groups kept => exact kept legal
  | powerOn => exact ⟨nofun, Nat.zero_le _, nofun, List.Pairwise.nil⟩
  | _ => exact legal

/-- Settles O53: every command changes the control side by steps that keep its stores and counts bounded, its health legal and its
addresses within their law. -/
theorem countsAndAddressesStayLegal : Obligations.CountsAndAddressesStayLegal := by
  refine ⟨fun s t bounded run => ?_, fun s t legal run => ?_, fun s t legal run => ?_⟩
  · rw [storesBounded_iff] at bounded ⊢
    exact step_keeps_controlSide (fun _ _ step => step.keeps_bounded) s t bounded run
  · exact step_keeps_controlSide (Inv := fun x => HealthLegal x.health) (fun _ _ step => step.keeps_health) s t legal run
  · exact step_keeps_controlSide (Inv := fun x => AddressesLegal x.filter) (fun _ _ step => step.keeps_addresses) s t legal run

end Sys2Proof.Proofs
end

section
/-! The waiting commands at every command: none ends in a fault or a refusal, and none touches the queue of commands (chapter 0). -/

namespace Sys2Proof.Proofs

open Sys2Proof.Machine Sys2Proof.Safety Sys2Proof.Laws

/-! ## Answers and events of the heads -/

@[simp] theorem answerPacket_pending (p : Packet) (o : OutcomeCode) (body : List Byte) (s : State) :
    (answerPacket p o body s).pending = s.pending := generate_pending _ _ _ _ _ _ _

@[simp] theorem answerSwaps_pending (order : List HeadId) (runs : PerHead HeadRun) (s : State) :
    (answerSwaps order runs s).pending = s.pending := by rw [answerSwaps_eq]

@[simp] theorem handToHeads_pending (f : Head → HeadRun) (s : State) : (handToHeads f s).pending = s.pending := by
  rw [handToHeads_eq]

@[simp] theorem runHeads_pending (f : HeadId → Head → HeadRun) (s : State) : (runHeads f s).pending = s.pending := by
  rw [runHeads_eq]

/-- A fold of operations that leave the waiting commands as they are leaves them as they are. -/
theorem foldl_pending {α : Type} (l : List α) (f : State → α → State) (kept : ∀ s a, (f s a).pending = s.pending) (s : State) :
    (l.foldl f s).pending = s.pending := by
  induction l generalizing s with
  | nil => rfl
  | cons a l ih => rw [List.foldl_cons, ih, kept]

/-! ## Withdrawals and the copy engine -/

@[simp] theorem withdraw_pending (h : HeadId) (s : State) : (withdraw h s).pending = s.pending := by rw [withdraw_eq]

@[simp] theorem removeJob_pending (h : HeadId) (s : State) (t : Table) : (removeJob h s t).pending = s.pending := by
  rw [removeJob_eq]

@[simp] theorem resumeCopy_pending (s : State) : (resumeCopy s).pending = s.pending := by rw [resumeCopy_eq]

theorem cancelHead_pending (ts : TableSet) (s : State) (h : HeadId) : (cancelHead ts s h).pending = s.pending := by
  rw [cancelHead, foldl_pending _ _ fun s t => removeJob_pending h s t]
  split
  · exact withdraw_pending h s
  · rfl

theorem beginGeneration_pending (p : Packet) (h : HeadId) (s : State) : (beginGeneration p h s).pending = s.pending := by
  simp [beginGeneration_eq, retimed]

/-! ## Takes -/

/-- What a verb's rule carries out leaves the waiting commands as they are. -/
theorem ruleOf_pending {v : Verb} {p : Packet} {s t : State} (carry : ruleOf v p s = .carryOut t) : t.pending = s.pending := by
  cases v with
  | discover =>
    obtain ⟨hop, body, -, rfl⟩ := ruleDiscover_inv carry
    exact answerPacket_pending _ _ _ _
  | setAccept =>
    obtain ⟨action, listed, body, -, -, rfl⟩ := ruleSetAccept_inv carry
    exact answerPacket_pending _ _ _ _
  | setLink =>
    cases carry
    exact answerPacket_pending _ _ _ _
  | setIntake | setGuard | setReturn | clearFault | start =>
    simp only [ruleOf, ruleSetIntake, ruleSetGuard, ruleSetReturn, ruleClearFault, ruleStart, doneWith] at carry
    split at carry <;> cases carry
    exact answerPacket_pending _ _ _ _
  | readStatus =>
    simp only [ruleOf, ruleReadStatus, doneWith] at carry
    split at carry <;> cases carry
    · exact answerPacket_pending _ _ _ _
    · rfl
  | resetUnit =>
    cases carry
    rfl
  | setTiming =>
    simp only [ruleOf, ruleSetTiming] at carry
    split at carry
    · split_ifs at carry
      cases carry
      exact beginGeneration_pending _ _ _
    · cases carry
  | stop =>
    rw [ruleOf, ruleStop_eq] at carry
    cases carry
    rw [afterStop_eq]
  | writeTable =>
    obtain ⟨rfl, -⟩ := ruleWriteTable_inv carry
    rfl
  | readTable =>
    simp only [ruleOf, ruleReadTable, doneWith] at carry
    split at carry
    · split at carry
      · cases carry
      · split_ifs at carry
        cases carry
        exact answerPacket_pending _ _ _ _
    · cases carry
  | sync =>
    obtain ⟨-, rfl⟩ := ruleSync_inv carry
    rw [answerPacket_pending, resumeCopy_pending]
    rfl
  | commit =>
    simp only [ruleOf, ruleCommit] at carry
    split_ifs at carry
    cases carry
    rw [runHeads_pending, answerPacket_pending]
  | cancel =>
    simp only [ruleOf, ruleCancel] at carry
    split_ifs at carry
    all_goals
      cases carry
      rw [answerPacket_pending, resumeCopy_pending, foldl_pending _ _ (cancelHead_pending _)]

theorem refuseTake_pending (o : OutcomeCode) (p : Packet) (s : State) : (refuseTake o p s).pending = s.pending := by
  rw [refuseTake_eq]

theorem refuseForm_pending (p : Packet) (s : State) : (refuseForm p s).pending = s.pending := refuseTake_pending _ _ _

theorem takeVerb_pending (v : Verb) (s : State) : (takeVerb v (ruleOf v) s).pending = s.pending :=
  takeVerb_induction (P := fun t => t.pending = s.pending) rfl (fun p _ => refuseForm_pending p _)
    (fun o p _ => refuseTake_pending o p _) fun _ rest _ carry => ruleOf_pending (s := afterTake rest s) carry

theorem takeUnknown_pending (s : State) : (takeUnknown s).pending = s.pending :=
  takeUnknown_induction (P := fun t => t.pending = s.pending) rfl fun p _ => refuseForm_pending p _

/-! ## Completions -/

theorem writeCompletion_pending (s : State) : (writeCompletion s).pending = s.pending := by
  unfold writeCompletion
  split
  · dsimp only
    split
    · exact answerPacket_pending _ _ _ _
    · rfl
  · rfl

theorem generationCompletion_pending (s : State) : (generationCompletion s).pending = s.pending := by
  unfold generationCompletion
  split
  · split
    · exact answerPacket_pending _ _ _ _
    · rfl
  · rfl

theorem segmentCopyCompletion_pending (s : State) : (segmentCopyCompletion s).pending = s.pending := by
  unfold segmentCopyCompletion
  split
  · dsimp only
    split
    · exact foldl_pending _ _ (fun _ _ => generate_pending _ _ _ _ _ _ _) _
    · rfl
  · rfl

theorem finishInitialization_pending (s : State) : (finishInitialization s).pending = s.pending := by
  unfold finishInitialization
  split
  · exact answerPacket_pending _ _ _ _
  · rfl

theorem initializationCompletion_pending (s : State) : (initializationCompletion s).pending = s.pending := by
  unfold initializationCompletion
  split
  · refine Eq.trans ?_ (finishInitialization_pending s)
    obtain noTake | unknown | ⟨v, taken⟩ := takeOldest_cases (finishInitialization s)
    · rw [noTake]
    · rw [unknown, takeUnknown_pending]
    · rw [taken, takeVerb_pending]
  · rfl

theorem completeSend_pending (asserted arrived : Bool) (s : State) : (completeSend asserted arrived s).pending = s.pending := by
  unfold completeSend
  split <;> rfl

/-! ## Events of the link and of a fill timer -/

theorem carrierUp_pending (s : State) : (carrierUp s).pending = s.pending := by
  unfold carrierUp
  split <;> rfl

theorem carrierLoss_pending (broken : Option ItemPart) (s : State) : (carrierLoss broken s).pending = s.pending := by
  unfold carrierLoss
  split <;> rfl

theorem releaseReset_pending (carrier : Bool) (s : State) : (releaseReset carrier s).pending = s.pending := by
  unfold releaseReset
  split
  · cases carrier with
    | true => exact carrierUp_pending _
    | false => rfl
  · rfl

theorem frameStart_pending (frame : Byte) (width height : Half) (s : State) :
    (frameStart frame width height s).pending = s.pending := by
  unfold frameStart
  split
  · rfl
  · exact handToHeads_pending _ _

theorem malformedMarker_pending (bytes : List Byte) (s : State) : (malformedMarker bytes s).pending = s.pending := by
  unfold malformedMarker
  split <;> rfl

theorem lineCompletion_pending (pixels : List Pixel) (s : State) : (lineCompletion pixels s).pending = s.pending := by
  unfold lineCompletion
  split
  · rfl
  · dsimp only
    split
    · exact handToHeads_pending _ _
    · rfl

theorem absenceExpiry_pending (s : State) : (absenceExpiry s).pending = s.pending := by
  unfold absenceExpiry
  split
  · exact handToHeads_pending _ _
  · rfl

theorem fillTimerExpiry_pending (h : HeadId) (s : State) : (fillTimerExpiry h s).pending = s.pending := by
  unfold fillTimerExpiry
  split
  · exact runHeads_pending _ _
  · rfl

theorem queuePacket_pending (p : Packet) (s : State) : (queuePacket p s).pending = s.pending := by rw [queuePacket_eq]

theorem packetArrival_pending (bytes : List Byte) (s : State) : (packetArrival bytes s).pending = s.pending := by
  unfold packetArrival
  split
  · rfl
  · rfl
  · rfl
  · unfold checkPacket
    split
    · dsimp only
      split
      · exact queuePacket_pending _ _
      · rfl
    · rfl

/-! ## Every command -/

theorem whileReleased_pending {f : State → State} {s : State} (kept : (f s).pending = s.pending) :
    (whileReleased f s).pending = s.pending := whileReleased_induction (P := fun t => t.pending = s.pending) rfl kept

theorem exec_takeOf_keepsQueue (v : Verb) (s : State) : ∃ t, exec (takeOf v) s = .next t ∧ t.pending = s.pending :=
  ⟨_, exec_takeOf v s, whileReleased_pending (takeVerb_pending v s)⟩

/-- Settles O2: each command answers its event or its take, which leaves the waiting commands as they are. -/
theorem everyCommandCompletesAndKeepsQueue : Obligations.EveryCommandCompletesAndKeepsQueue := by
  intro c s
  cases c with
  | powerOnReset broken => exact ⟨_, rfl, rfl⟩
  | resetInputRelease carrier => exact ⟨_, rfl, releaseReset_pending carrier s⟩
  | initializationCompletion => exact ⟨_, rfl, whileReleased_pending (initializationCompletion_pending s)⟩
  | carrierUp => exact ⟨_, rfl, whileReleased_pending (carrierUp_pending s)⟩
  | carrierLoss broken => exact ⟨_, rfl, whileReleased_pending (carrierLoss_pending broken s)⟩
  | frameStart f w h => exact ⟨_, rfl, whileReleased_pending (frameStart_pending f w h s)⟩
  | malformedMarker bytes => exact ⟨_, rfl, whileReleased_pending (malformedMarker_pending bytes s)⟩
  | lineCompletion pixels => exact ⟨_, rfl, whileReleased_pending (lineCompletion_pending pixels s)⟩
  | packetArrival bytes => exact ⟨_, rfl, whileReleased_pending (packetArrival_pending bytes s)⟩
  | absenceExpiry => exact ⟨_, rfl, whileReleased_pending (absenceExpiry_pending s)⟩
  | fillTimerExpiry h => exact ⟨_, rfl, whileReleased_pending (fillTimerExpiry_pending h s)⟩
  | writeCompletion => exact ⟨_, rfl, whileReleased_pending (writeCompletion_pending s)⟩
  | generationCompletion => exact ⟨_, rfl, whileReleased_pending (generationCompletion_pending s)⟩
  | segmentCopyCompletion => exact ⟨_, rfl, whileReleased_pending (segmentCopyCompletion_pending s)⟩
  | sendStart => exact ⟨_, rfl, whileReleased_pending rfl⟩
  | sendCompletion asserted arrived => exact ⟨_, rfl, whileReleased_pending (completeSend_pending asserted arrived s)⟩
  | relayArrival a => exact ⟨_, rfl, whileReleased_pending rfl⟩
  | holdBackRelease asserted => exact ⟨_, rfl, rfl⟩
  | unknownVerb => exact ⟨_, rfl, whileReleased_pending (takeUnknown_pending s)⟩
  | discover => exact exec_takeOf_keepsQueue .discover s
  | setAccept => exact exec_takeOf_keepsQueue .setAccept s
  | setLink => exact exec_takeOf_keepsQueue .setLink s
  | setIntake => exact exec_takeOf_keepsQueue .setIntake s
  | setGuard => exact exec_takeOf_keepsQueue .setGuard s
  | setReturn => exact exec_takeOf_keepsQueue .setReturn s
  | clearFault => exact exec_takeOf_keepsQueue .clearFault s
  | readStatus => exact exec_takeOf_keepsQueue .readStatus s
  | resetUnit => exact exec_takeOf_keepsQueue .resetUnit s
  | setTiming => exact exec_takeOf_keepsQueue .setTiming s
  | start => exact exec_takeOf_keepsQueue .start s
  | stop => exact exec_takeOf_keepsQueue .stop s
  | writeTable => exact exec_takeOf_keepsQueue .writeTable s
  | readTable => exact exec_takeOf_keepsQueue .readTable s
  | sync => exact exec_takeOf_keepsQueue .sync s
  | commit => exact exec_takeOf_keepsQueue .commit s
  | cancel => exact exec_takeOf_keepsQueue .cancel s

end Sys2Proof.Proofs
end

section
/-! What the part owes on an empty queue of commands, and RESET-UNIT's take (R134, R144, R171, R172, R177, R184, R185). -/

namespace Sys2Proof.Proofs

open Sys2Proof.Machine Sys2Proof.Safety Sys2Proof.Laws

/-! ## What is owed (R134, R171, R172) -/

theorem laneFree_iff (x : AnswerSide) : laneFree x = true ↔ x.sending = none ∧ x.heldBack = false := by simp [laneFree]

/-- A store is served where an answer waits in either (R172). -/
theorem nextServed_isSome_iff (x : AnswerSide) : (nextServed x).isSome = true ↔ x.own ≠ [] ∨ x.relay ≠ [] := by
  unfold nextServed
  split
  next own relay => simp [own, relay]
  next own relay => simp [own]
  next own relay => simp [relay]
  next own relay =>
    refine iff_of_true ?_ (.inl (by simp [own]))
    split
    · rfl
    · rfl
    · split <;> rfl

theorem sendDue_iff (s : State) :
    sendDue s = true ↔
      (s.answers.sending = none ∧ s.answers.heldBack = false) ∧ (s.answers.own ≠ [] ∨ s.answers.relay ≠ []) := by
  rw [sendDue, Bool.and_eq_true, laneFree_iff, nextServed_isSome_iff]

theorem nextTake_eq_none {s : State}
    (notDue : s.loader.state ≠ .idle ∨ s.control.state ≠ .ready ∨ s.intake.queue = []) : nextTake s = none := by
  refine Option.eq_none_iff_forall_ne_some.2 fun ⟨p, t⟩ due => ?_
  obtain ⟨idle, ready, rest, queue, -⟩ := nextTake_eq_some due
  simp [idle, ready, queue] at notDue

section Empty
variable {s : State}

/-- On an empty queue the step is that of the event the part owes (assumption 3). -/
theorem step_of_owed {c : Instr} (empty : s.pending = []) (owed : owedEvent s = some c) : step s = exec c s := by
  simp only [step, empty, owed]

theorem step_of_idle (empty : s.pending = []) (idle : owedEvent s = none) : step s = .next s := by
  simp only [step, empty, idle]

theorem owedEvent_of_asserted (asserted : s.control.resetInput = true) : owedEvent s = none := if_pos asserted

theorem owedEvent_of_sendDue (released : s.control.resetInput = false) (due : sendDue s = true) :
    owedEvent s = some .sendStart := by simp [owedEvent, released, due]

/-- With no send start due the part owes the take of the oldest packet, or nothing. -/
theorem owedEvent_of_noSend (released : s.control.resetInput = false) (noSend : ¬sendDue s = true) :
    owedEvent s = (nextTake s).map fun t => takeCommand t.1 := by simp [owedEvent, released, noSend]

end Empty

/-- Settles O3, by the event that is owed. -/
theorem emptyQueueStepDoesWhatIsOwed : Obligations.EmptyQueueStepDoesWhatIsOwed := by
  refine fun s empty => ⟨fun asserted => step_of_idle empty (owedEvent_of_asserted asserted), fun released => ?_⟩
  refine ⟨fun free waits => ?_, fun noSend => ?_⟩
  · exact step_of_owed empty (owedEvent_of_sendDue released ((sendDue_iff s).2 ⟨free, waits⟩))
  · have owed := owedEvent_of_noSend released (mt (sendDue_iff s).1 noSend)
    refine ⟨fun p rest idle ready queue => ?_, fun notDue => ?_⟩
    · exact step_of_owed empty (by rw [owed, nextTake_of_due idle ready queue]; rfl)
    · exact step_of_idle empty (by rw [owed, nextTake_eq_none notDue]; rfl)

/-! ## RESET-UNIT (R144, R177, R184, R185) -/

/-- Settles O7: no head mask judges RESET-UNIT and its rule has no refusal; what it carries out after the take is that state, each
head by `resetUnitHead`. -/
theorem resetUnitKeepsLinkAndParksHeads : Obligations.ResetUnitKeepsLinkAndParksHeads := fun _ _ _ takes =>
  exec_takeOf_of_carryOut (v := .resetUnit) takes rfl rfl

end Sys2Proof.Proofs
end

section
/-! Answers as they are made, and what becomes of them: queued, suppressed, or dropped and counted (R139, R150, R164, R165, R167,
R168, R197). -/

namespace Sys2Proof.Proofs

open Sys2Proof.Machine Sys2Proof.Safety Sys2Proof.Laws

/-- The answers that a confinement state allows: all in ACTIVE, those to READ-STATUS in REDUCED, none in MUTE (R150). -/
theorem answerAllowed_iff (c : Confinement) (verb : Byte) :
    answerAllowed c verb = true ↔ c = .active ∨ (c = .reduced ∧ verb = 0x17#8) := by
  cases c <;> simp [answerAllowed, verbCode]

section Generate
variable {verb tag : Byte} {wanted : Bool} {o : OutcomeCode} {head : Option HeadId} {body : List Byte} {s : State}

/-- An answer without its flag, or one that the confinement state does not allow, leaves no trace (R150, R165). -/
theorem generate_of_suppressed (suppressed : ¬(wanted = true ∧ answerAllowed (confinement s) verb = true)) :
    generate verb tag wanted o head body s = s := by
  rw [generate_eq, if_neg suppressed]

theorem generate_of_allowed (allowed : wanted = true ∧ answerAllowed (confinement s) verb = true) :
    generate verb tag wanted o head body s =
      { s with answers := queueAnswer (makeAnswer s.filter.hop verb tag o head body) s.answers } := by
  rw [generate_eq, if_pos allowed]

end Generate

theorem queueAnswer_of_room {a : Answer} {x : AnswerSide} (room : x.own.length < 4) :
    queueAnswer a x = { x with own := x.own ++ [a] } := if_pos room

/-- An answer that finds the queue full is dropped and counted (R168). -/
theorem queueAnswer_of_full {a : Answer} {x : AnswerSide} (full : 4 ≤ x.own.length) :
    queueAnswer a x = { x with lost := if x.lost < 255 then x.lost + 1 else 255 } := by
  rw [queueAnswer, if_neg (Nat.not_lt.2 full), countTo255_eq]

/-- Settles O33: the fields of a made answer one by one, and a generated one by the queue's room. -/
theorem answerGeneratedOrSuppressedOrDropped : Obligations.AnswerGeneratedOrSuppressedOrDropped := by
  refine ⟨fun hop verb tag o head body => ?_, fun _ _ _ _ => rfl, fun verb tag wanted o head body s => ?_⟩
  · intro source outcome index
    have sourceField : hopByte hop = source := hopByte_eq hop
    have outcomeField : outcomeByte o = outcome := by cases o <;> rfl
    have headField : headByte head = index := by rcases head with _ | _ | _ | _ | _ <;> rfl
    refine ⟨outcomeField, ?_⟩
    rw [makeAnswer, sourceField, outcomeField, headField]
    rfl
  · intro allowed a
    have allowed_iff : allowed ↔ wanted = true ∧ answerAllowed (confinement s) verb = true :=
      and_congr_right' (answerAllowed_iff _ _).symm
    refine ⟨fun no => generate_of_suppressed (mt allowed_iff.2 no), fun yes room => ?_, fun yes full => ?_⟩
    · rw [generate_of_allowed (allowed_iff.1 yes), queueAnswer_of_room room]
    · rw [generate_of_allowed (allowed_iff.1 yes), queueAnswer_of_full full]

end Sys2Proof.Proofs
end

section
/-! The health monitor and the fault record at every command: which commands leave the monitor as it is, and which keep the first
fault that the record holds (R148, R152 to R155). -/

namespace Sys2Proof.Proofs

open Sys2Proof.Machine Sys2Proof.Safety Sys2Proof.Laws

/-- What check results and fault reports change: the health monitor, and the entry of the fault record. -/
structure MonitorSide where
  health : Health
  entry : Option FaultEntry

/-- The monitor side of a state. -/
def monitorSide (s : State) : MonitorSide := { health := s.health, entry := s.fault.entry }

/-- From `x` to `y` a first fault is kept, its overflow count no lower and within its top (R155). -/
def FirstFaultKept (x y : Option FaultEntry) : Prop :=
  ∀ e, x = some e → e.overflow ≤ 255 → ∃ n, y = some { e with overflow := n } ∧ e.overflow ≤ n ∧ n ≤ 255

/-- From `s` to `t` the health monitor stays as it is, and a first fault is kept. -/
structure MonitorsKept (s t : State) : Prop where
  health : t.health = s.health
  fault : FirstFaultKept s.fault.entry t.fault.entry

/-- From `h` to `g` the error count, the recovery run and the re-arm flag stay as they are: all of the monitor but its latch. -/
structure CountsKept (h g : Health) : Prop where
  errors : g.errors = h.errors
  muteRun : g.muteRun = h.muteRun
  rearm : g.rearm = h.rearm

/-! ## Reports (R155) -/

/-- A report to an empty record occupies it. -/
theorem reportFault_of_empty {kind : FaultKind} {complete : Bool} {header : Header} {frame : Byte} {r : FaultRecord}
    (empty : r.entry = none) :
    reportFault kind complete header frame r =
      { entry := some { kind := kind, complete := complete, header := header, frame := frame, overflow := 0 }
        guard := r.guard } := by
  simp only [reportFault, empty]

/-- A report to an occupied record is counted. -/
theorem reportFault_of_occupied {kind : FaultKind} {complete : Bool} {header : Header} {frame : Byte} {r : FaultRecord}
    {e : FaultEntry} (occupied : r.entry = some e) :
    reportFault kind complete header frame r =
      { entry := some { e with overflow := if e.overflow < 255 then e.overflow + 1 else 255 }, guard := r.guard } := by
  simp only [reportFault, occupied, countTo255_eq]

theorem firstFaultKept_refl (x : Option FaultEntry) : FirstFaultKept x x :=
  fun e occupied bounded => ⟨e.overflow, occupied, le_rfl, bounded⟩

theorem reportFault_firstFaultKept (kind : FaultKind) (complete : Bool) (header : Header) (frame : Byte) (r : FaultRecord) :
    FirstFaultKept r.entry (reportFault kind complete header frame r).entry := by
  intro e occupied bounded
  rw [reportFault_of_occupied occupied]
  refine ⟨_, rfl, ?_, ?_⟩ <;> split <;> omega

/-! ## Operations that leave the monitors as they are -/

theorem MonitorsKept.of_monitorSide {s t : State} (same : monitorSide t = monitorSide s) : MonitorsKept s t := by
  have entry : t.fault.entry = s.fault.entry := congrArg MonitorSide.entry same
  refine ⟨congrArg MonitorSide.health same, ?_⟩
  rw [entry]
  exact firstFaultKept_refl _

theorem MonitorsKept.of_controlSide {s t : State} (same : controlSide t = controlSide s) : MonitorsKept s t :=
  .of_monitorSide (congrArg (fun x : ControlSide => (⟨x.health, x.fault.entry⟩ : MonitorSide)) same)

theorem monitorsKept_refl (s : State) : MonitorsKept s s := .of_monitorSide rfl

@[simp] theorem monitorSide_generate (verb tag : Byte) (wanted : Bool) (o : OutcomeCode) (head : Option HeadId)
    (body : List Byte) (s : State) : monitorSide (generate verb tag wanted o head body s) = monitorSide s := by
  rw [generate_eq]
  rfl

@[simp] theorem monitorSide_answerPacket (p : Packet) (o : OutcomeCode) (body : List Byte) (s : State) :
    monitorSide (answerPacket p o body s) = monitorSide s := monitorSide_generate _ _ _ _ _ _ s

@[simp] theorem monitorSide_handToHeads (f : Head → HeadRun) (s : State) : monitorSide (handToHeads f s) = monitorSide s := by
  rw [handToHeads_eq]
  rfl

@[simp] theorem monitorSide_runHeads (f : HeadId → Head → HeadRun) (s : State) : monitorSide (runHeads f s) = monitorSide s := by
  rw [runHeads_eq]
  rfl

@[simp] theorem monitorSide_resumeCopy (s : State) : monitorSide (resumeCopy s) = monitorSide s := by
  rw [resumeCopy_eq]
  rfl

/-- SET-TIMING's take withdraws a commit and jobs, and changes neither monitor (R77). -/
theorem monitorSide_beginGeneration (p : Packet) (h : HeadId) (s : State) :
    monitorSide (beginGeneration p h s) = monitorSide s := by
  rw [beginGeneration_eq, resumeCopy_eq, removeJob_eq, removeJob_eq, withdraw_eq]
  rfl

/-- CANCEL's steps change neither monitor (R104). -/
theorem monitorSide_cancelHeads (ts : TableSet) (l : List HeadId) (s : State) :
    monitorSide (l.foldl (cancelHead ts) s) = monitorSide s :=
  (congrArg monitorSide (cancelHeads_frame ts l s) :)

/-! ## Takes -/

/-- What a verb's rule carries out leaves the monitors as they are, CLEAR-FAULT apart. -/
theorem ruleOf_monitorSide {v : Verb} {p : Packet} {s t : State} (notClear : v ≠ .clearFault)
    (carry : ruleOf v p s = .carryOut t) : monitorSide t = monitorSide s := by
  cases v with
  | clearFault => exact absurd rfl notClear
  | discover =>
    obtain ⟨hop, body, -, rfl⟩ := ruleDiscover_inv carry
    exact monitorSide_answerPacket _ _ _ _
  | setAccept =>
    obtain ⟨action, listed, body, -, -, rfl⟩ := ruleSetAccept_inv carry
    exact monitorSide_answerPacket _ _ _ _
  | setLink =>
    cases carry
    exact monitorSide_answerPacket _ _ _ _
  | setIntake | setGuard | setReturn | start =>
    simp only [ruleOf, ruleSetIntake, ruleSetGuard, ruleSetReturn, ruleStart, doneWith] at carry
    split at carry <;> cases carry
    exact monitorSide_answerPacket _ _ _ _
  | readStatus =>
    simp only [ruleOf, ruleReadStatus, doneWith] at carry
    split at carry <;> cases carry
    · exact monitorSide_answerPacket _ _ _ _
    · rfl
  | resetUnit =>
    cases carry
    rfl
  | setTiming =>
    simp only [ruleOf, ruleSetTiming] at carry
    split at carry
    · split_ifs at carry
      cases carry
      exact monitorSide_beginGeneration _ _ _
    · cases carry
  | stop =>
    rw [ruleOf, ruleStop_eq, afterStop_eq] at carry
    cases carry
    rfl
  | writeTable =>
    obtain ⟨rfl, -⟩ := ruleWriteTable_inv carry
    rfl
  | readTable =>
    simp only [ruleOf, ruleReadTable, doneWith] at carry
    split at carry
    · split at carry
      · cases carry
      · split_ifs at carry
        cases carry
        exact monitorSide_answerPacket _ _ _ _
    · cases carry
  | sync =>
    obtain ⟨-, rfl⟩ := ruleSync_inv carry
    rw [monitorSide_answerPacket, monitorSide_resumeCopy]
    rfl
  | commit =>
    simp only [ruleOf, ruleCommit] at carry
    split_ifs at carry
    cases carry
    rw [monitorSide_runHeads, monitorSide_answerPacket]
    rfl
  | cancel =>
    simp only [ruleOf, ruleCancel] at carry
    split_ifs at carry
    all_goals
      cases carry
      rw [monitorSide_answerPacket, monitorSide_resumeCopy, monitorSide_cancelHeads]

/-- A refused take changes neither monitor (R137). -/
theorem refuseTake_monitorsKept (o : OutcomeCode) (p : Packet) (rest : List Packet) (s : State) :
    MonitorsKept s (refuseTake o p (afterTake rest s)) := by
  rw [refuseTake_eq]
  exact .of_monitorSide rfl

/-- A take refused for form is reported (R135). -/
theorem refuseForm_monitorsKept (p : Packet) (rest : List Packet) (s : State) :
    MonitorsKept s (refuseForm p (afterTake rest s)) := by
  rw [refuseForm, refuseTake_eq]
  exact ⟨rfl, reportFault_firstFaultKept _ _ _ _ _⟩

theorem takeVerb_monitorsKept {v : Verb} (notClear : v ≠ .clearFault) (s : State) :
    MonitorsKept s (takeVerb v (ruleOf v) s) :=
  takeVerb_induction (P := MonitorsKept s) (monitorsKept_refl s) (fun p rest => refuseForm_monitorsKept p rest s)
    (fun o p rest => refuseTake_monitorsKept o p rest s)
    fun _ rest _ carry => .of_monitorSide (ruleOf_monitorSide (s := afterTake rest s) notClear carry)

theorem takeUnknown_monitorsKept (s : State) : MonitorsKept s (takeUnknown s) :=
  takeUnknown_induction (P := MonitorsKept s) (monitorsKept_refl s) fun p rest => refuseForm_monitorsKept p rest s

/-! ## Completions and events -/

theorem monitorSide_writeCompletion (s : State) : monitorSide (writeCompletion s) = monitorSide s := by
  unfold writeCompletion
  split
  · dsimp only
    split
    · exact monitorSide_answerPacket _ _ _ _
    · rfl
  · rfl

theorem monitorSide_generationCompletion (s : State) : monitorSide (generationCompletion s) = monitorSide s := by
  unfold generationCompletion
  split
  · split
    · exact monitorSide_answerPacket _ _ _ _
    · rfl
  · rfl

theorem monitorSide_segmentCopyCompletion (s : State) : monitorSide (segmentCopyCompletion s) = monitorSide s := by
  unfold segmentCopyCompletion
  split
  · dsimp only
    split
    · rw [foldl_answers_eq _ _ (by intro s j; rw [answerJob, generate_eq])]
      rfl
    · rfl
  · rfl

theorem monitorSide_finishInitialization (s : State) : monitorSide (finishInitialization s) = monitorSide s := by
  unfold finishInitialization
  split
  · exact monitorSide_answerPacket _ _ _ _
  · rfl

theorem monitorSide_completeSend (asserted arrived : Bool) (s : State) :
    monitorSide (completeSend asserted arrived s) = monitorSide s := by
  unfold completeSend
  split <;> rfl

theorem monitorSide_frameStart (frame : Byte) (width height : Half) (s : State) :
    monitorSide (frameStart frame width height s) = monitorSide s := by
  unfold frameStart
  split
  · rfl
  · exact monitorSide_handToHeads _ _

theorem monitorSide_lineCompletion (pixels : List Pixel) (s : State) :
    monitorSide (lineCompletion pixels s) = monitorSide s := by
  unfold lineCompletion
  split
  · rfl
  · dsimp only
    split
    · exact monitorSide_handToHeads _ _
    · rfl

theorem monitorSide_absenceExpiry (s : State) : monitorSide (absenceExpiry s) = monitorSide s := by
  unfold absenceExpiry
  split
  · exact monitorSide_handToHeads _ _
  · rfl

theorem monitorSide_fillTimerExpiry (h : HeadId) (s : State) : monitorSide (fillTimerExpiry h s) = monitorSide s := by
  unfold fillTimerExpiry
  split
  · exact monitorSide_runHeads _ _
  · rfl

/-! ## Packet arrivals (R112, R129, R155) -/

/-- A packet that arrives at the intake queue is reported at most as lost (R129). -/
theorem queuePacket_firstFaultKept (p : Packet) (s : State) :
    FirstFaultKept s.fault.entry (queuePacket p s).fault.entry := by
  unfold queuePacket
  split
  · exact firstFaultKept_refl _
  · split
    · exact reportFault_firstFaultKept _ _ _ _ _
    · split
      · exact reportFault_firstFaultKept _ _ _ _ _
      · exact firstFaultKept_refl _

/-- A packet recognised in LOCKED is reported at most as failed or as lost (R112). -/
theorem checkPacket_firstFaultKept (bytes : List Byte) (s : State) :
    FirstFaultKept s.fault.entry (checkPacket bytes s).fault.entry := by
  unfold checkPacket
  split
  · dsimp only
    split
    · exact queuePacket_firstFaultKept (packetOf bytes) { s with health := countGood s.health }
    · exact firstFaultKept_refl _
  · exact reportFault_firstFaultKept _ _ _ _ _

theorem packetArrival_firstFaultKept (bytes : List Byte) (s : State) :
    FirstFaultKept s.fault.entry (packetArrival bytes s).fault.entry := by
  unfold packetArrival
  split
  · exact firstFaultKept_refl _
  · exact firstFaultKept_refl _
  · exact firstFaultKept_refl _
  · exact checkPacket_firstFaultKept bytes (repeatThru (.packet (forwardedPacket bytes)) s)

/-! ## CLEAR-FAULT and the initialization completion (R134, R160, R181) -/

theorem MonitorsKept.counts {s t : State} (kept : MonitorsKept s t) : CountsKept s.health t.health := by
  rw [kept.health]
  exact ⟨rfl, rfl, rfl⟩

/-- Of the monitor, CLEAR-FAULT clears at most the WARN latch (R160). -/
theorem ruleClearFault_counts {p : Packet} {s t : State} (carry : ruleClearFault p s = .carryOut t) :
    CountsKept s.health t.health := by
  simp only [ruleClearFault, doneWith] at carry
  split at carry <;> cases carry
  rw [answerPacket_eq]
  show CountsKept s.health (if (byteAt p.body 0).getLsbD 1 then { s.health with warn := false } else s.health)
  split <;> exact ⟨rfl, rfl, rfl⟩

theorem takeVerb_counts (v : Verb) (s : State) : CountsKept s.health (takeVerb v (ruleOf v) s).health := by
  by_cases clear : v = .clearFault
  · subst clear
    exact takeVerb_induction (P := fun t => CountsKept s.health t.health) (monitorsKept_refl s).counts
      (fun p rest => (refuseForm_monitorsKept p rest s).counts)
      (fun o p rest => (refuseTake_monitorsKept o p rest s).counts)
      fun _ rest _ carry => ruleClearFault_counts (s := afterTake rest s) carry
  · exact (takeVerb_monitorsKept clear s).counts

/-- Whatever the initialization completion takes leaves the counts of the monitor as they are (R134, R148, R181). -/
theorem initializationCompletion_counts (s : State) : CountsKept s.health (initializationCompletion s).health := by
  unfold initializationCompletion
  split
  · rw [← show (finishInitialization s).health = s.health from
      congrArg MonitorSide.health (monitorSide_finishInitialization s)]
    obtain noTake | unknown | ⟨v, taken⟩ := takeOldest_cases (finishInitialization s)
    · rw [noTake]
      exact (monitorsKept_refl _).counts
    · rw [unknown]
      exact (takeUnknown_monitorsKept _).counts
    · rw [taken]
      exact takeVerb_counts v _
  · exact (monitorsKept_refl s).counts

/-! ## Every command -/

theorem whileReleased_monitorsKept {f : State → State} {s : State} (kept : MonitorsKept s (f s)) :
    MonitorsKept s (whileReleased f s) := whileReleased_induction (monitorsKept_refl s) kept

theorem whileReleased_monitorSide {f : State → State} {s : State} (same : monitorSide (f s) = monitorSide s) :
    MonitorsKept s (whileReleased f s) := whileReleased_monitorsKept (.of_monitorSide same)

theorem whileReleased_controlSide {f : State → State} {s : State} (same : controlSide (f s) = controlSide s) :
    MonitorsKept s (whileReleased f s) := whileReleased_monitorsKept (.of_controlSide same)

theorem exec_takeOf_monitorsKept {v : Verb} {s t : State} (notClear : v ≠ .clearFault)
    (run : exec (takeOf v) s = .next t) : MonitorsKept s t := by
  rw [exec_takeOf] at run
  cases run
  exact whileReleased_monitorsKept (takeVerb_monitorsKept notClear s)

/-- Every command leaves the health monitor as it is and keeps a first fault, but for power-on reset, a packet arrival, CLEAR-FAULT
and the initialization completion, which may take a CLEAR-FAULT. -/
theorem exec_monitorsKept {c : Instr} {s t : State} (run : exec c s = .next t) (notReset : ∀ b, c ≠ .powerOnReset b)
    (notPacket : ∀ bytes, c ≠ .packetArrival bytes) (notClear : c ≠ .clearFault)
    (notCompletion : c ≠ .initializationCompletion) : MonitorsKept s t := by
  cases c with
  | powerOnReset broken => exact absurd rfl (notReset broken)
  | packetArrival bytes => exact absurd rfl (notPacket bytes)
  | clearFault => exact absurd rfl notClear
  | initializationCompletion => exact absurd rfl notCompletion
  | resetInputRelease carrier => cases run; exact .of_controlSide (controlSide_releaseReset carrier s)
  | carrierUp => cases run; exact whileReleased_controlSide (controlSide_carrierUp s)
  | carrierLoss broken => cases run; exact whileReleased_controlSide (controlSide_carrierLoss broken s)
  | frameStart f w h => cases run; exact whileReleased_monitorSide (monitorSide_frameStart f w h s)
  | malformedMarker bytes => cases run; exact whileReleased_controlSide (controlSide_malformedMarker bytes s)
  | lineCompletion pixels => cases run; exact whileReleased_monitorSide (monitorSide_lineCompletion pixels s)
  | absenceExpiry => cases run; exact whileReleased_monitorSide (monitorSide_absenceExpiry s)
  | fillTimerExpiry h => cases run; exact whileReleased_monitorSide (monitorSide_fillTimerExpiry h s)
  | writeCompletion => cases run; exact whileReleased_monitorSide (monitorSide_writeCompletion s)
  | generationCompletion => cases run; exact whileReleased_monitorSide (monitorSide_generationCompletion s)
  | segmentCopyCompletion => cases run; exact whileReleased_monitorSide (monitorSide_segmentCopyCompletion s)
  | sendStart => cases run; exact whileReleased_monitorSide rfl
  | sendCompletion asserted arrived => cases run; exact whileReleased_monitorSide (monitorSide_completeSend asserted arrived s)
  | relayArrival a => cases run; exact whileReleased_monitorSide rfl
  | holdBackRelease asserted => cases run; exact .of_monitorSide rfl
  | unknownVerb => cases run; exact whileReleased_monitorsKept (takeUnknown_monitorsKept s)
  | discover => exact exec_takeOf_monitorsKept (v := .discover) nofun run
  | setAccept => exact exec_takeOf_monitorsKept (v := .setAccept) nofun run
  | setLink => exact exec_takeOf_monitorsKept (v := .setLink) nofun run
  | setIntake => exact exec_takeOf_monitorsKept (v := .setIntake) nofun run
  | setGuard => exact exec_takeOf_monitorsKept (v := .setGuard) nofun run
  | setReturn => exact exec_takeOf_monitorsKept (v := .setReturn) nofun run
  | readStatus => exact exec_takeOf_monitorsKept (v := .readStatus) nofun run
  | resetUnit => exact exec_takeOf_monitorsKept (v := .resetUnit) nofun run
  | setTiming => exact exec_takeOf_monitorsKept (v := .setTiming) nofun run
  | start => exact exec_takeOf_monitorsKept (v := .start) nofun run
  | stop => exact exec_takeOf_monitorsKept (v := .stop) nofun run
  | writeTable => exact exec_takeOf_monitorsKept (v := .writeTable) nofun run
  | readTable => exact exec_takeOf_monitorsKept (v := .readTable) nofun run
  | sync => exact exec_takeOf_monitorsKept (v := .sync) nofun run
  | commit => exact exec_takeOf_monitorsKept (v := .commit) nofun run
  | cancel => exact exec_takeOf_monitorsKept (v := .cancel) nofun run

/-- The counts of the monitor change at packet arrivals alone, power-on reset apart (R148, R153). -/
theorem exec_counts {c : Instr} {s t : State} (run : exec c s = .next t) (notReset : ∀ b, c ≠ .powerOnReset b)
    (notPacket : ∀ bytes, c ≠ .packetArrival bytes) : CountsKept s.health t.health := by
  have asserted : CountsKept s.health s.health := (monitorsKept_refl s).counts
  by_cases completion : c = .initializationCompletion
  · subst completion
    cases run
    exact whileReleased_induction (P := fun t => CountsKept s.health t.health) asserted (initializationCompletion_counts s)
  · by_cases clear : c = .clearFault
    · subst clear
      cases run
      exact whileReleased_induction (P := fun t => CountsKept s.health t.health) asserted (takeVerb_counts .clearFault s)
    · exact (exec_monitorsKept run notReset notPacket clear completion).counts

/-- A first fault is kept by every command but power-on reset, CLEAR-FAULT and the initialization completion (R154, R155). -/
theorem exec_firstFaultKept {c : Instr} {s t : State} (run : exec c s = .next t) (notReset : ∀ b, c ≠ .powerOnReset b)
    (notClear : c ≠ .clearFault) (notCompletion : c ≠ .initializationCompletion) :
    FirstFaultKept s.fault.entry t.fault.entry := by
  by_cases packet : ∃ bytes, c = .packetArrival bytes
  · obtain ⟨bytes, rfl⟩ := packet
    cases run
    exact whileReleased_induction (P := fun t => FirstFaultKept s.fault.entry t.fault.entry) (firstFaultKept_refl _)
      (packetArrival_firstFaultKept bytes s)
  · exact (exec_monitorsKept run notReset (not_exists.1 packet) notClear notCompletion).fault

/-- Settles O15: a report by whether the record is occupied, and the first fault at every command. -/
theorem firstFaultIsKeptAndLaterOnesCounted : Obligations.FirstFaultIsKeptAndLaterOnesCounted :=
  ⟨fun _ _ _ _ _ => ⟨reportFault_of_empty, fun _ => reportFault_of_occupied⟩,
    fun _ _ _ e run occupied bounded notReset notClear notCompletion =>
      exec_firstFaultKept run notReset notClear notCompletion e occupied bounded⟩

end Sys2Proof.Proofs
end

section
/-! What the health monitor makes of check results: the error count, the recovery run from MUTE, and the WARN latch with its re-arm
flag (R148, R149, R152, R153). -/

namespace Sys2Proof.Proofs

open Sys2Proof.Machine Sys2Proof.Safety

/-! ## The WARN latch (R153) -/

section Crossing
variable {e : Nat} {h : Health}

theorem setErrors_of_rise (below : h.errors < 96) (above : 96 ≤ e) :
    setErrors e h = { h with errors := e, warn := h.warn || h.rearm, rearm := false } := if_pos ⟨below, above⟩

theorem setErrors_of_fall (above : 96 ≤ h.errors) (below : e < 96) :
    setErrors e h = { h with errors := e, rearm := true } := by
  rw [setErrors, if_neg (by omega), if_pos ⟨above, below⟩]

theorem setErrors_of_noCrossing (same : h.errors < 96 ↔ e < 96) : setErrors e h = { h with errors := e } := by
  rw [setErrors, if_neg (by omega), if_neg (by omega)]

end Crossing

/-- From `h` to `g` the WARN latch and the re-arm flag follow the error count: at a rise to 96 or more an armed flag sets the latch
and is used up, at a fall below 96 the flag is armed again, and elsewhere both stay (R153). -/
structure WarnFollows (h g : Health) : Prop where
  rise : h.errors < 96 → 96 ≤ g.errors → g.warn = (h.warn || h.rearm) ∧ g.rearm = false
  fall : 96 ≤ h.errors → g.errors < 96 → g.warn = h.warn ∧ g.rearm = true
  same : (h.errors < 96 ↔ g.errors < 96) → g.warn = h.warn ∧ g.rearm = h.rearm

/-- A monitor whose latch and flag are those after a new error count. -/
theorem warnFollows_setErrors (e : Nat) (h : Health) (run : Nat) :
    WarnFollows h { setErrors e h with muteRun := run } := by
  refine ⟨fun below above => ?_, fun above below => ?_, fun same => ?_⟩ <;> simp only [setErrors_errors] at *
  · rw [setErrors_of_rise below above]
    exact ⟨rfl, rfl⟩
  · rw [setErrors_of_fall above below]
    exact ⟨rfl, rfl⟩
  · rw [setErrors_of_noCrossing same]
    exact ⟨rfl, rfl⟩

/-! ## Check results (R148, R152) -/

theorem confinementOf_eq_active (errors : Nat) : confinementOf errors = .active ↔ errors < 128 := by
  unfold confinementOf
  split_ifs <;> simp <;> omega

theorem confinementOf_eq_reduced (errors : Nat) : confinementOf errors = .reduced ↔ 128 ≤ errors ∧ errors ≤ 255 := by
  unfold confinementOf
  split_ifs <;> simp <;> omega

/-- Outside MUTE a good check takes 1 from the error count. -/
theorem countGood_of_below {h : Health} (below : h.errors < 256) : countGood h = setErrors (h.errors - 1) h :=
  countGood_of_heard fun mute => by
    have past := (confinementOf_eq_mute h.errors).1 mute
    omega

section Recovery
variable {h : Health} (mute : h.errors = 256)
include mute

theorem countGood_of_recovering (run : h.muteRun < 63) : countGood h = { h with muteRun := h.muteRun + 1 } := by
  rw [countGood_of_mute ((confinementOf_eq_mute _).2 (by omega)), if_neg (by omega)]

/-- The 64th good check of a run ends MUTE and arms the re-arm flag; the latch stays as it is. -/
theorem countGood_of_recovered (run : h.muteRun = 63) : countGood h = { h with errors := 0, muteRun := 0, rearm := true } := by
  rw [countGood_of_mute ((confinementOf_eq_mute _).2 (by omega)), if_pos run.ge, setErrors_of_fall (by omega) (by omega)]

end Recovery

theorem countFailed_warnFollows (h : Health) : WarnFollows h (countFailed h) := warnFollows_setErrors _ h 0

theorem countGood_warnFollows (h : Health) : WarnFollows h (countGood h) := by
  by_cases mute : confinementOf h.errors = .mute
  · rw [countGood_of_mute mute]
    split
    · exact warnFollows_setErrors 0 h 0
    · exact ⟨by simp only; omega, by simp only; omega, fun _ => ⟨rfl, rfl⟩⟩
  · rw [countGood_of_heard mute]
    exact warnFollows_setErrors (h.errors - 1) h (setErrors (h.errors - 1) h).muteRun

/-- A unit in MUTE after `run` good checks of an unbroken run. -/
def mutedHealth (run : Nat) (warn rearm : Bool) : Health := { errors := 256, muteRun := run, warn := warn, rearm := rearm }

/-- The first 63 good checks from entry to MUTE count the run and nothing else (R152). -/
theorem iterate_countGood_of_muted (warn rearm : Bool) {n : Nat} (short : n < 64) :
    countGood^[n] (mutedHealth 0 warn rearm) = mutedHealth n warn rearm := by
  induction n with
  | zero => rfl
  | succ n ih =>
    rw [Function.iterate_succ_apply', ih (by omega)]
    exact countGood_of_recovering (h := mutedHealth n warn rearm) rfl (by simp only [mutedHealth]; omega)

theorem iterate_countGood_of_recovered (warn rearm : Bool) :
    countGood^[64] (mutedHealth 0 warn rearm) = { errors := 0, muteRun := 0, warn := warn, rearm := true } := by
  rw [Function.iterate_succ_apply', iterate_countGood_of_muted warn rearm (by decide)]
  exact countGood_of_recovered (h := mutedHealth 63 warn rearm) rfl rfl

/-- Settles O14: each check result by the monitor before it, the recovery run by its length, and the counts at every command. -/
theorem checkResultsMoveErrorCount : Obligations.CheckResultsMoveErrorCount := by
  refine ⟨fun h legal => ?_, fun warn rearm n short => ?_, fun c s t run notReset notPacket => ?_, fun _ => rfl⟩
  · obtain ⟨top, -, noRun, -⟩ := legal
    refine ⟨⟨setErrors_errors _ h, rfl⟩, fun below => ?_, countGood_of_recovering, countGood_of_recovered, fun g result => ?_,
      confinementOf_eq_active _, confinementOf_eq_reduced _, ?_⟩
    · rw [countGood_of_below below, setErrors_errors, setErrors_muteRun]
      exact ⟨rfl, noRun below⟩
    · have follows : WarnFollows h g := by
        obtain rfl | rfl := result
        · exact countFailed_warnFollows h
        · exact countGood_warnFollows h
      exact ⟨follows.rise, follows.fall, follows.same⟩
    · rw [confinementOf_eq_mute]
      omega
  · dsimp only
    split
    · rename_i inRun
      exact iterate_countGood_of_muted warn rearm inRun
    · obtain rfl : n = 64 := by omega
      exact iterate_countGood_of_recovered warn rearm
  · obtain ⟨errors, muteRun, rearm⟩ := exec_counts run notReset notPacket
    exact ⟨errors, muteRun, rearm⟩

end Sys2Proof.Proofs
end

section
/-! CLEAR-FAULT: the items it clears, and the report of what was held before (R160, R161, R199). -/

namespace Sys2Proof.Proofs

open Sys2Proof.Machine Sys2Proof.Safety Sys2Proof.Laws

/-- What a clear mask clears, field by field (R160). -/
theorem clearItems_eq (mask : Byte) (s : State) :
    clearItems mask s =
      { s with
        fault := { s.fault with entry := if mask.getLsbD 0 = true then none else s.fault.entry }
        health := { s.health with warn := if mask.getLsbD 1 = true then false else s.health.warn }
        intake := { s.intake with lost := if mask.getLsbD 2 = true then 0 else s.intake.lost }
        answers := { s.answers with lost := if mask.getLsbD 2 = true then 0 else s.answers.lost }
        heads := .ofFn fun h =>
          if mask.getLsbD 3 = true then { s.heads.get h with missTotal := 0, shortFrames := 0 } else s.heads.get h } := by
  unfold clearItems
  congr 1
  · cases mask.getLsbD 1 <;> rfl
  · cases mask.getLsbD 0 <;> rfl
  · cases mask.getLsbD 2 <;> rfl
  · cases mask.getLsbD 3 <;> rfl
  · cases mask.getLsbD 2 <;> rfl

theorem ruleClearFault_of_defined {p : Packet} {s : State} (defined : (byteAt p.body 0).toNat ≤ 15) :
    ruleClearFault p s =
      .carryOut (answerPacket p .done (faultBlock s.fault ++ [boolByte s.health.warn, byteOf s.intake.lost, byteOf s.answers.lost])
        (clearItems (byteAt p.body 0) s)) := if_neg (Nat.not_lt.2 defined)

theorem ruleClearFault_of_undefined {p : Packet} {s : State} (undefined : 15 < (byteAt p.body 0).toNat) :
    ruleClearFault p s = .refuse .badArg := if_pos undefined

/-- Settles O41: the verb's rule by whether its mask has another bit, what it clears field by field, and the fault block by whether
the record is occupied. -/
theorem clearFaultClearsNamedItems : Obligations.ClearFaultClearsNamedItems := by
  intro s p rest takes mask s1 block
  have reported : faultBlock s.fault = block := by
    cases occupied : s.fault.entry with
    | none => simp only [block, occupied, faultBlock_of_empty occupied]
    | some e =>
      rw [faultBlock_of_occupied occupied]
      simp only [block, occupied]
      cases e.kind <;> rfl
  refine ⟨fun defined => ?_, fun undefined => ?_⟩
  · refine exec_takeOf_of_carryOut (v := .clearFault) takes rfl ?_
    rw [ruleOf, ruleClearFault_of_defined defined, clearItems_eq, ← reported]
    rfl
  · exact exec_takeOf_of_refuse (v := .clearFault) takes rfl (ruleClearFault_of_undefined undefined)

end Sys2Proof.Proofs
end

section
/-! The partner's hold-back at every command: only the partner changes it, at a release, an assertion, or a send completion (R170,
R171, R173, assumption 9). -/

namespace Sys2Proof.Proofs

open Sys2Proof.Machine Sys2Proof.Safety Sys2Proof.Laws

/-! ## Answers and events of the heads -/

theorem heldBack_of_controlSide {s t : State} (same : controlSide t = controlSide s) :
    t.answers.heldBack = s.answers.heldBack := congrArg (fun x : ControlSide => x.answers.heldBack) same

@[simp] theorem answerPacket_heldBack (p : Packet) (o : OutcomeCode) (body : List Byte) (s : State) :
    (answerPacket p o body s).answers.heldBack = s.answers.heldBack := generate_heldBack _ _ _ _ _ _ _

/-- A fold of operations that leave the partner's hold-back as it is leaves it as it is. -/
theorem foldl_heldBack {α : Type} (l : List α) (f : State → α → State)
    (kept : ∀ s a, (f s a).answers.heldBack = s.answers.heldBack) (s : State) :
    (l.foldl f s).answers.heldBack = s.answers.heldBack := by
  induction l generalizing s with
  | nil => rfl
  | cons a l ih => rw [List.foldl_cons, ih, kept]

@[simp] theorem answerSwaps_heldBack (order : List HeadId) (runs : PerHead HeadRun) (s : State) :
    (answerSwaps order runs s).answers.heldBack = s.answers.heldBack := by
  refine foldl_heldBack _ _ (fun s h => ?_) s
  cases (runs.get h).swapped with
  | none => rfl
  | some c => exact generate_heldBack _ _ _ _ _ _ s

@[simp] theorem handToHeads_heldBack (f : Head → HeadRun) (s : State) :
    (handToHeads f s).answers.heldBack = s.answers.heldBack := answerSwaps_heldBack _ _ _

@[simp] theorem runHeads_heldBack (f : HeadId → Head → HeadRun) (s : State) :
    (runHeads f s).answers.heldBack = s.answers.heldBack := answerSwaps_heldBack _ _ _

/-! ## Withdrawals and the copy engine -/

theorem withdraw_heldBack (h : HeadId) (s : State) : (withdraw h s).answers.heldBack = s.answers.heldBack := by
  unfold withdraw
  split
  · exact generate_heldBack _ _ _ _ _ _ _
  · rfl

theorem answerJobs_heldBack (o : OutcomeCode) (jobs : List SyncJob) (s : State) :
    (jobs.foldl (fun s j => answerJob j o s) s).answers.heldBack = s.answers.heldBack :=
  foldl_heldBack _ _ (fun _ _ => generate_heldBack _ _ _ _ _ _ _) s

theorem removeJob_heldBack (h : HeadId) (s : State) (t : Table) :
    (removeJob h s t).answers.heldBack = s.answers.heldBack := answerJobs_heldBack _ _ _

theorem resumeCopy_heldBack (s : State) : (resumeCopy s).answers.heldBack = s.answers.heldBack :=
  heldBack_of_controlSide (controlSide_resumeCopy s)

theorem cancelHead_heldBack (ts : TableSet) (s : State) (h : HeadId) :
    (cancelHead ts s h).answers.heldBack = s.answers.heldBack := by
  rw [cancelHead, foldl_heldBack _ _ fun s t => removeJob_heldBack h s t]
  split
  · exact withdraw_heldBack h s
  · rfl

theorem beginGeneration_heldBack (p : Packet) (h : HeadId) (s : State) :
    (beginGeneration p h s).answers.heldBack = s.answers.heldBack := by
  rw [beginGeneration_eq, resumeCopy_heldBack, removeJob_heldBack, removeJob_heldBack, withdraw_heldBack]
  rfl

/-! ## Takes -/

/-- A STOP leaves the partner's hold-back as it is, in either order of its answers (R79). -/
theorem afterStop_heldBack (p : Packet) (s : State) : (afterStop p s).answers.heldBack = s.answers.heldBack := by
  unfold afterStop
  split
  · rw [answerSwaps_heldBack, stopDone, answerPacket_heldBack]
    rfl
  · rw [stopDone, answerPacket_heldBack, answerSwaps_heldBack]
    rfl

/-- What a verb's rule carries out leaves the partner's hold-back as it is, RESET-UNIT's with the others (R184). -/
theorem ruleOf_heldBack {v : Verb} {p : Packet} {s t : State} (carry : ruleOf v p s = .carryOut t) :
    t.answers.heldBack = s.answers.heldBack := by
  cases v with
  | discover =>
    obtain ⟨hop, body, -, rfl⟩ := ruleDiscover_inv carry
    exact answerPacket_heldBack _ _ _ _
  | setAccept =>
    obtain ⟨action, listed, body, -, -, rfl⟩ := ruleSetAccept_inv carry
    exact answerPacket_heldBack _ _ _ _
  | setLink =>
    cases carry
    exact answerPacket_heldBack _ _ _ _
  | setIntake | setGuard | setReturn | start =>
    simp only [ruleOf, ruleSetIntake, ruleSetGuard, ruleSetReturn, ruleStart, doneWith] at carry
    split at carry <;> cases carry
    exact answerPacket_heldBack _ _ _ _
  | clearFault =>
    simp only [ruleOf, ruleClearFault, doneWith] at carry
    split at carry <;> cases carry
    rw [answerPacket_heldBack, clearItems_eq]
  | readStatus =>
    simp only [ruleOf, ruleReadStatus, doneWith] at carry
    split at carry <;> cases carry
    · exact answerPacket_heldBack _ _ _ _
    · rfl
  | resetUnit =>
    cases carry
    rfl
  | setTiming =>
    simp only [ruleOf, ruleSetTiming] at carry
    split at carry
    · split_ifs at carry
      cases carry
      exact beginGeneration_heldBack _ _ _
    · cases carry
  | stop =>
    rw [ruleOf, ruleStop_eq] at carry
    cases carry
    exact afterStop_heldBack p s
  | writeTable =>
    obtain ⟨rfl, -⟩ := ruleWriteTable_inv carry
    rfl
  | readTable =>
    simp only [ruleOf, ruleReadTable, doneWith] at carry
    split at carry
    · split at carry
      · cases carry
      · split_ifs at carry
        cases carry
        exact answerPacket_heldBack _ _ _ _
    · cases carry
  | sync =>
    obtain ⟨-, rfl⟩ := ruleSync_inv carry
    rw [answerPacket_heldBack, resumeCopy_heldBack]
    rfl
  | commit =>
    simp only [ruleOf, ruleCommit] at carry
    split_ifs at carry
    cases carry
    rw [runHeads_heldBack, answerPacket_heldBack]
  | cancel =>
    simp only [ruleOf, ruleCancel] at carry
    split_ifs at carry
    all_goals
      cases carry
      rw [answerPacket_heldBack, resumeCopy_heldBack, foldl_heldBack _ _ (cancelHead_heldBack _)]

theorem refuseTake_heldBack (o : OutcomeCode) (p : Packet) (s : State) :
    (refuseTake o p s).answers.heldBack = s.answers.heldBack := by
  rw [refuseTake_eq]
  exact answerPacket_heldBack p o [] s

theorem refuseForm_heldBack (p : Packet) (s : State) : (refuseForm p s).answers.heldBack = s.answers.heldBack :=
  refuseTake_heldBack _ _ _

theorem takeVerb_heldBack (v : Verb) (s : State) : (takeVerb v (ruleOf v) s).answers.heldBack = s.answers.heldBack :=
  takeVerb_induction (P := fun t => t.answers.heldBack = s.answers.heldBack) rfl (fun p _ => refuseForm_heldBack p _)
    (fun o p _ => refuseTake_heldBack o p _) fun _ rest _ carry => ruleOf_heldBack (s := afterTake rest s) carry

theorem takeUnknown_heldBack (s : State) : (takeUnknown s).answers.heldBack = s.answers.heldBack :=
  takeUnknown_induction (P := fun t => t.answers.heldBack = s.answers.heldBack) rfl fun p _ => refuseForm_heldBack p _

/-! ## Completions -/

theorem writeCompletion_heldBack (s : State) : (writeCompletion s).answers.heldBack = s.answers.heldBack := by
  unfold writeCompletion
  split
  · dsimp only
    split
    · exact answerPacket_heldBack _ _ _ _
    · rfl
  · rfl

theorem generationCompletion_heldBack (s : State) : (generationCompletion s).answers.heldBack = s.answers.heldBack := by
  unfold generationCompletion
  split
  · split
    · exact answerPacket_heldBack _ _ _ _
    · rfl
  · rfl

theorem segmentCopyCompletion_heldBack (s : State) :
    (segmentCopyCompletion s).answers.heldBack = s.answers.heldBack := by
  unfold segmentCopyCompletion
  split
  · dsimp only
    split
    · exact answerJobs_heldBack _ _ _
    · rfl
  · rfl

theorem finishInitialization_heldBack (s : State) :
    (finishInitialization s).answers.heldBack = s.answers.heldBack := by
  unfold finishInitialization
  split
  · exact answerPacket_heldBack _ _ _ _
  · rfl

theorem initializationCompletion_heldBack (s : State) :
    (initializationCompletion s).answers.heldBack = s.answers.heldBack := by
  unfold initializationCompletion
  split
  · refine Eq.trans ?_ (finishInitialization_heldBack s)
    obtain noTake | unknown | ⟨v, taken⟩ := takeOldest_cases (finishInitialization s)
    · rw [noTake]
    · rw [unknown, takeUnknown_heldBack]
    · rw [taken, takeVerb_heldBack]
  · rfl

/-! ## Events of the link and of a fill timer -/

theorem frameStart_heldBack (frame : Byte) (width height : Half) (s : State) :
    (frameStart frame width height s).answers.heldBack = s.answers.heldBack := by
  unfold frameStart
  split
  · rfl
  · exact handToHeads_heldBack _ _

theorem lineCompletion_heldBack (pixels : List Pixel) (s : State) :
    (lineCompletion pixels s).answers.heldBack = s.answers.heldBack := by
  unfold lineCompletion
  split
  · rfl
  · dsimp only
    split
    · exact handToHeads_heldBack _ _
    · rfl

theorem absenceExpiry_heldBack (s : State) : (absenceExpiry s).answers.heldBack = s.answers.heldBack := by
  unfold absenceExpiry
  split
  · exact handToHeads_heldBack _ _
  · rfl

theorem fillTimerExpiry_heldBack (h : HeadId) (s : State) : (fillTimerExpiry h s).answers.heldBack = s.answers.heldBack := by
  unfold fillTimerExpiry
  split
  · exact runHeads_heldBack _ _
  · rfl

theorem packetArrival_heldBack (bytes : List Byte) (s : State) :
    (packetArrival bytes s).answers.heldBack = s.answers.heldBack := by
  unfold packetArrival
  split
  · rfl
  · rfl
  · rfl
  · unfold checkPacket
    split
    · dsimp only
      split
      · rw [queuePacket_eq]
        rfl
      · rfl
    · rfl

/-! ## Events of the return lane -/

theorem beginSend_heldBack (x : AnswerSide) : (beginSend x).heldBack = x.heldBack := by
  unfold beginSend
  split
  · split <;> rfl
  · rfl

theorem relayArrive_heldBack (a : Answer) (x : AnswerSide) : (relayArrive a x).heldBack = x.heldBack := by
  unfold relayArrive
  split <;> rfl

/-- A send completion at which the partner does not assert its hold-back leaves it as it is (R171). -/
theorem completeSend_heldBack (arrived : Bool) (s : State) :
    (completeSend false arrived s).answers.heldBack = s.answers.heldBack := by
  unfold completeSend
  split
  · exact Bool.or_false _
  · rfl

/-- A hold-back asserted before a send completion stays (R171). -/
theorem completeSend_of_heldBack (asserted arrived : Bool) {s : State} (held : s.answers.heldBack = true) :
    (completeSend asserted arrived s).answers.heldBack = true := by
  unfold completeSend
  split
  · exact Bool.or_eq_true_iff.2 (.inl held)
  · exact held

/-! ## Every command -/

theorem whileReleased_heldBack {f : State → State} {s : State} (kept : (f s).answers.heldBack = s.answers.heldBack) :
    (whileReleased f s).answers.heldBack = s.answers.heldBack :=
  whileReleased_induction (P := fun t => t.answers.heldBack = s.answers.heldBack) rfl kept

theorem exec_takeOf_heldBack {v : Verb} {s t : State} (run : exec (takeOf v) s = .next t) :
    t.answers.heldBack = s.answers.heldBack := by
  rw [exec_takeOf] at run
  cases run
  exact whileReleased_heldBack (takeVerb_heldBack v s)

/-- Every command but the partner's own release or assertion, and a send completion at which it asserts, leaves its hold-back as
it is (R171, assumption 9). -/
theorem exec_heldBack {c : Instr} {s t : State} (run : exec c s = .next t) (notRelease : ∀ b, c ≠ .holdBackRelease b)
    (notAsserted : ∀ arrived, c ≠ .sendCompletion true arrived) : t.answers.heldBack = s.answers.heldBack := by
  cases c with
  | powerOnReset broken => cases run; rfl
  | resetInputRelease carrier => cases run; exact heldBack_of_controlSide (controlSide_releaseReset carrier s)
  | initializationCompletion => cases run; exact whileReleased_heldBack (initializationCompletion_heldBack s)
  | carrierUp => cases run; exact whileReleased_heldBack (heldBack_of_controlSide (controlSide_carrierUp s))
  | carrierLoss broken => cases run; exact whileReleased_heldBack (heldBack_of_controlSide (controlSide_carrierLoss broken s))
  | frameStart f w h => cases run; exact whileReleased_heldBack (frameStart_heldBack f w h s)
  | malformedMarker bytes =>
    cases run
    exact whileReleased_heldBack (heldBack_of_controlSide (controlSide_malformedMarker bytes s))
  | lineCompletion pixels => cases run; exact whileReleased_heldBack (lineCompletion_heldBack pixels s)
  | packetArrival bytes => cases run; exact whileReleased_heldBack (packetArrival_heldBack bytes s)
  | absenceExpiry => cases run; exact whileReleased_heldBack (absenceExpiry_heldBack s)
  | fillTimerExpiry h => cases run; exact whileReleased_heldBack (fillTimerExpiry_heldBack h s)
  | writeCompletion => cases run; exact whileReleased_heldBack (writeCompletion_heldBack s)
  | generationCompletion => cases run; exact whileReleased_heldBack (generationCompletion_heldBack s)
  | segmentCopyCompletion => cases run; exact whileReleased_heldBack (segmentCopyCompletion_heldBack s)
  | sendStart => cases run; exact whileReleased_heldBack (beginSend_heldBack s.answers)
  | sendCompletion asserted arrived =>
    cases run
    cases asserted with
    | true => exact absurd rfl (notAsserted arrived)
    | false => exact whileReleased_heldBack (completeSend_heldBack arrived s)
  | relayArrival a => cases run; exact whileReleased_heldBack (relayArrive_heldBack a s.answers)
  | holdBackRelease asserted => exact absurd rfl (notRelease asserted)
  | unknownVerb => cases run; exact whileReleased_heldBack (takeUnknown_heldBack s)
  | discover => exact exec_takeOf_heldBack (v := .discover) run
  | setAccept => exact exec_takeOf_heldBack (v := .setAccept) run
  | setLink => exact exec_takeOf_heldBack (v := .setLink) run
  | setIntake => exact exec_takeOf_heldBack (v := .setIntake) run
  | setGuard => exact exec_takeOf_heldBack (v := .setGuard) run
  | setReturn => exact exec_takeOf_heldBack (v := .setReturn) run
  | clearFault => exact exec_takeOf_heldBack (v := .clearFault) run
  | readStatus => exact exec_takeOf_heldBack (v := .readStatus) run
  | resetUnit => exact exec_takeOf_heldBack (v := .resetUnit) run
  | setTiming => exact exec_takeOf_heldBack (v := .setTiming) run
  | start => exact exec_takeOf_heldBack (v := .start) run
  | stop => exact exec_takeOf_heldBack (v := .stop) run
  | writeTable => exact exec_takeOf_heldBack (v := .writeTable) run
  | readTable => exact exec_takeOf_heldBack (v := .readTable) run
  | sync => exact exec_takeOf_heldBack (v := .sync) run
  | commit => exact exec_takeOf_heldBack (v := .commit) run
  | cancel => exact exec_takeOf_heldBack (v := .cancel) run

/-- An asserted hold-back ends at the partner's release alone (R171, R173). -/
theorem exec_keeps_heldBack {c : Instr} {s t : State} (run : exec c s = .next t) (notRelease : ∀ b, c ≠ .holdBackRelease b)
    (held : s.answers.heldBack = true) : t.answers.heldBack = true := by
  by_cases asserts : ∃ arrived, c = .sendCompletion true arrived
  · obtain ⟨arrived, rfl⟩ := asserts
    cases run
    exact whileReleased_induction (P := fun t => t.answers.heldBack = true) held (completeSend_of_heldBack true arrived held)
  · exact (exec_heldBack run notRelease (not_exists.1 asserts)).trans held

end Sys2Proof.Proofs
end

section
/-! The return merger: the store a send start serves, and the events of the return lane as whole next states (R169 to R173). -/

namespace Sys2Proof.Proofs

open Sys2Proof.Machine Sys2Proof.Safety Sys2Proof.Laws

/-! ## The store that is served (R172) -/

section Serving
variable {x : AnswerSide} {a : Answer} {rest : List Answer}

theorem nextServed_of_own (own : x.own = a :: rest)
    (chosen : x.relay = [] ∨ x.mode = .ownFirst ∨ (x.mode = .alternate ∧ x.lastServed = .relay)) :
    nextServed x = some .own := by
  cases relay : x.relay with
  | nil => simp only [nextServed, own, relay]
  | cons b others =>
    obtain empty | ownFirst | ⟨alternate, served⟩ := chosen
    · simp [relay] at empty
    · simp only [nextServed, own, relay, ownFirst]
    · simp [nextServed, own, relay, alternate, served]

theorem nextServed_of_relay (relay : x.relay = a :: rest)
    (chosen : x.own = [] ∨ x.mode = .relayFirst ∨ (x.mode = .alternate ∧ x.lastServed = .own)) :
    nextServed x = some .relay := by
  cases own : x.own with
  | nil => simp only [nextServed, own, relay]
  | cons b others =>
    obtain empty | relayFirst | ⟨alternate, served⟩ := chosen
    · simp [own] at empty
    · simp only [nextServed, own, relay, relayFirst]
    · simp [nextServed, own, relay, alternate, served]

theorem beginSend_of_own (free : laneFree x = true) (served : nextServed x = some .own) (own : x.own = a :: rest) :
    beginSend x = { x with own := rest, sending := some a, lastServed := .own } := by
  simp only [beginSend, free, served, own, if_true, List.tail_cons, List.head?_cons]

theorem beginSend_of_relay (free : laneFree x = true) (served : nextServed x = some .relay) (relay : x.relay = a :: rest) :
    beginSend x = { x with relay := rest, sending := some a, lastServed := .relay } := by
  simp only [beginSend, free, served, relay, if_true, List.tail_cons, List.head?_cons]

/-- With nothing waiting there is no send start (assumption 2). -/
theorem beginSend_of_empty (own : x.own = []) (relay : x.relay = []) : beginSend x = x := by
  simp [beginSend, nextServed, own, relay]

/-- With the lane not free there is no send start (R171, assumption 2). -/
theorem beginSend_of_busy (busy : x.sending ≠ none ∨ x.heldBack = true) : beginSend x = x := by
  refine if_neg fun free => ?_
  obtain ⟨idle, notHeld⟩ := (laneFree_iff x).1 free
  simp [idle, notHeld] at busy

end Serving

/-- The unit below is held back exactly while a holding within its size is full (R170). -/
theorem holdsBackBelow_iff {x : AnswerSide} (bounded : x.relay.length ≤ 2) :
    holdsBackBelow x = true ↔ x.relay.length = 2 := by
  rw [holdsBackBelow, decide_eq_true_iff]
  omega

/-! ## The events of the lane -/

section Lane
variable {s : State}

theorem exec_sendStart (released : s.control.resetInput = false) :
    exec .sendStart s = .next { s with answers := beginSend s.answers } :=
  congrArg Host.Outcome.next (whileReleased_of_released _ released)

/-- Where there is no send start its command changes nothing, whatever the level of the reset input. -/
theorem exec_sendStart_of_none (noSend : beginSend s.answers = s.answers) : exec .sendStart s = .next s := by
  refine congrArg Host.Outcome.next (whileReleased_induction (P := fun t => t = s) rfl ?_)
  rw [noSend]

/-- A send start takes the oldest own answer where that store is served. -/
theorem exec_sendStart_of_own {a : Answer} {rest : List Answer} (released : s.control.resetInput = false)
    (free : laneFree s.answers = true) (own : s.answers.own = a :: rest)
    (chosen : s.answers.relay = [] ∨ s.answers.mode = .ownFirst ∨
      (s.answers.mode = .alternate ∧ s.answers.lastServed = .relay)) :
    exec .sendStart s =
      .next { s with answers := { s.answers with own := rest, sending := some a, lastServed := .own } } := by
  rw [exec_sendStart released, beginSend_of_own free (nextServed_of_own own chosen) own]

/-- A send start takes the oldest relayed answer where that store is served. -/
theorem exec_sendStart_of_relay {a : Answer} {rest : List Answer} (released : s.control.resetInput = false)
    (free : laneFree s.answers = true) (relay : s.answers.relay = a :: rest)
    (chosen : s.answers.own = [] ∨ s.answers.mode = .relayFirst ∨
      (s.answers.mode = .alternate ∧ s.answers.lastServed = .own)) :
    exec .sendStart s =
      .next { s with answers := { s.answers with relay := rest, sending := some a, lastServed := .relay } } := by
  rw [exec_sendStart released, beginSend_of_relay free (nextServed_of_relay relay chosen) relay]

/-- The completion of a send, whose answer has reached the partner where it has arrived (R171). -/
theorem exec_sendCompletion {a : Answer} {asserted arrived : Bool} (released : s.control.resetInput = false)
    (sending : s.answers.sending = some a) :
    exec (.sendCompletion asserted arrived) s = .next { s with
      answers := { s.answers with sending := none, heldBack := s.answers.heldBack || asserted }
      outputs := if arrived then { s.outputs with returned := s.outputs.returned ++ [a] } else s.outputs } := by
  refine congrArg Host.Outcome.next ((whileReleased_of_released _ released).trans ?_)
  simp only [completeSend, sending]

theorem exec_relayArrival {a : Answer} (released : s.control.resetInput = false) (room : s.answers.relay.length < 2) :
    exec (.relayArrival a) s = .next { s with answers := { s.answers with relay := s.answers.relay ++ [a] } } := by
  refine congrArg Host.Outcome.next ((whileReleased_of_released _ released).trans ?_)
  rw [relayArrive, if_pos room]

end Lane

/-- Settles O34: a send start by the store that is served, the events of the lane as whole next states, and the hold-back of either
side, the partner's at every command. -/
theorem laneServesByMergeModeAndDelivers : Obligations.LaneServesByMergeModeAndDelivers := by
  refine ⟨fun s released idle notHeld => ?_, fun s released => ⟨fun a held sending => ?_, fun a => ?_, fun a one => ?_⟩,
    fun _ _ => rfl, fun c s t run notRelease => ?_, fun s busy => ?_, fun x => holdsBackBelow_iff,
    fun s a b released idle notHeld full chosen => ?_⟩
  · have free := (laneFree_iff s.answers).2 ⟨idle, notHeld⟩
    exact ⟨fun a rest => exec_sendStart_of_own released free, fun a rest => exec_sendStart_of_relay released free,
      fun own relay => exec_sendStart_of_none (beginSend_of_empty own relay)⟩
  · exact ⟨exec_sendCompletion released sending, exec_sendCompletion released sending⟩
  · exact exec_relayArrival released
  · have two : (s.answers.relay ++ [a]).length = 2 := by rw [List.length_append, one, List.length_singleton]
    exact (holdsBackBelow_iff two.le).2 two
  · exact ⟨exec_heldBack run notRelease, exec_keeps_heldBack run notRelease⟩
  · exact exec_sendStart_of_none (beginSend_of_busy busy)
  · have free := (laneFree_iff s.answers).2 ⟨idle, notHeld⟩
    refine ⟨_, exec_sendStart_of_relay released free full chosen, rfl, rfl, ?_, rfl⟩
    rw [holdsBackBelow, full]
    rfl

end Sys2Proof.Proofs
end

section
/-! The state right after reset and the invariants every step keeps (R61, R183): what it holds, and one lemma per invariant
that no earlier part proves of it. -/

namespace Sys2Proof.Proofs

open Sys2Proof.Machine Sys2Proof.Safety Sys2Proof.Laws

/-! ## What the reset state holds -/

@[simp] theorem reset_head (k : HeadId) : State.reset.heads.get k = resetHead k := perHead_get_ofFn resetHead k

@[simp] theorem reset_port (k : HeadId) : State.reset.outputs.ports.get k = [] := perHead_get_ofFn (fun _ => []) k

/-- A power-on reset of the reset state changes nothing, so what every power-on reset leaves true holds of that state. -/
theorem powerOn_reset (broken : Option ItemPart) : powerOn broken State.reset = State.reset := rfl

/-! ## The control side, the receiver and the ring -/

theorem reset_storesBounded : StoresBounded State.reset :=
  (storesBounded_iff _).2 (show (controlSide State.reset).Bounded from
    ⟨⟨Nat.zero_le _, Nat.zero_le _⟩, ⟨Nat.zero_le _, Nat.zero_le _, Nat.zero_le _⟩, nofun⟩)

theorem reset_addressesLegal : AddressesLegal State.reset.filter := ⟨nofun, Nat.zero_le _, nofun, List.Pairwise.nil⟩

theorem reset_receiverLegal : ReceiverLegal State.reset.receiver :=
  ⟨by simp [State.reset], fun _ => rfl, by simp [State.reset], by decide⟩

theorem reset_ringHoldsFrame : RingHoldsFrame State.reset := (ringHoldsFrame_iff _).2 (holdsFrame_of_empty rfl rfl)

theorem reset_carrierPresented : CarrierPresented State.reset := rfl

/-! ## The heads -/

theorem reset_runFollowsLink : RunFollowsLink State.reset := by
  intro k run
  rw [reset_head] at run
  simp [resetHead] at run

theorem reset_tablesLegal : TablesLegal State.reset := by
  intro k
  rw [reset_head]
  exact defaultPairs_legal k

theorem reset_codesLegal : CodesLegal State.reset := by
  intro k line emitted
  rw [reset_port] at emitted
  exact absurd emitted List.not_mem_nil

/-- Settles O60: each block's invariant from its power-on value, those of commits and tables from what every power-on reset keeps. -/
theorem resetMeetsEveryInvariant : Obligations.ResetMeetsEveryInvariant := by
  obtain ⟨commits, quiet⟩ := powerOn_reset none ▸ powerOn_commitsSoundAndQuiet none State.reset
  obtain ⟨loader, copy, banks⟩ := powerOn_reset none ▸ powerOn_tablesSound none State.reset
  have heads (k : HeadId) : HeadLegal (State.reset.heads.get k) := reset_head k ▸ resetHead_legal k
  have counts (k : HeadId) : MissCountsBounded (State.reset.heads.get k) := reset_head k ▸ resetHead_bounded k
  exact ⟨reset_storesBounded, resetHealth_legal, reset_receiverLegal, reset_ringHoldsFrame, reset_addressesLegal, heads, counts,
    reset_runFollowsLink, commits, quiet, reset_tablesLegal, reset_codesLegal, loader, copy, banks, reset_carrierPresented⟩

end Sys2Proof.Proofs
end

section
/-! The step with commands waiting; `step_of_owed` and `step_of_idle` are those on an empty queue. -/

namespace Sys2Proof.Proofs

open Sys2Proof.Machine

theorem step_of_waiting {s : State} {c : Instr} {rest : List Instr} (waiting : s.pending = c :: rest) :
    step s = exec c { s with pending := rest } := by
  simp only [step, waiting]

/-- Settles O1: the state's queue is the one that was put there, and taking its front leaves every other part as it was. -/
theorem stepRunsFrontCommand : Obligations.StepRunsFrontCommand := fun _ _ _ => step_of_waiting rfl

end Sys2Proof.Proofs
end
